-- ==== Sys2Proof/Word.lean ====
section
/-! DEFINITION. The word and byte of the block: 30_encoding.md R60 ("one word length, WORD_W = 32 bits") and 00_scope.md R7, R8. A word is indivisible: it has no byte order (20_memory.md R43). -/

namespace Sys2Proof

/-- A command word or a response word: WORD_W = 32 bits, bit 0 the least significant (R8, R60). -/
abbrev Word := BitVec 32

/-- A data byte: DATA_W = 8 bits (R7). -/
abbrev Byte := BitVec 8

/-- CMD_DATA_LSB = RSP_DATA_LSB = 24: the lowest bit of the data field of either format (R7, R61, R66). -/
abbrev dataLsb : Nat := 24

end Sys2Proof
end

