-- ==== Sys2Proof/Config.lean ====
section
/-! DEFINITION. The implementation parameters of 00_scope.md R7. They are data, not global constants, so that a statement over every state is a statement over every value of them ("OPEN means the model takes it as an argument and every claim quantifies over it"). -/

namespace Sys2Proof

/-- The two condition classes, OUT ("outbound queue has room") and IN ("inbound queue has data"): R9. -/
inductive IrqClass where
  | outbound
  | inbound
  deriving DecidableEq, Repr

/-- An interrupt id. R7 asks for "an opaque injective function of block and class"; the pair itself is
the plainest one (DESIGN CHOICE, safe: log 13). It also names a handler slot and an interrupt context. -/
structure IrqId where
  block : Nat
  cls : IrqClass
  deriving DecidableEq, Repr

/-- `irq_id(b, c)` of R7. -/
def irqId (b : Nat) (c : IrqClass) : IrqId := ⟨b, c⟩

/-- The parameters of R7 that an implementation fixes. WORD_W, DATA_W and the data positions are constants (Word.lean). -/
structure Config where
  /-- LANES_PER_BLOCK, default 4 (D8). -/
  lanesPerBlock : Nat
  /-- N_BLOCKS, OPEN (D8). -/
  nBlocks : Nat
  /-- IRQ_BLOCKS, "the subset of blocks that support interrupt delivery", default block 0 alone (D9). -/
  irqBlocks : List Nat
  /-- TXQ_DEPTH, OPEN (D7). -/
  txqDepth : Nat
  /-- RXQ_DEPTH, OPEN (D7). -/
  rxqDepth : Nat
  /-- CMD_START_BIT, default 23 (D1). -/
  cmdStartBit : Fin 24
  /-- CMD_STOP_BIT, default 22 (D1). -/
  cmdStopBit : Fin 24
  /-- CMD_REPLY_BIT, default 21 (D1). -/
  cmdReplyBit : Fin 24
  /-- CMD_NACK_BIT, default 20 (D1, D2). -/
  cmdNackBit : Fin 24
  /-- RSP_NACK_BIT, default 20 (D5). -/
  rspNackBit : Fin 24
  /-- ENGINE_MAX_OWED, OPEN; `none` is "unbounded" (D37). -/
  engineMaxOwed : Option Nat
  /-- `may_preempt`, OPEN (D12), as the finite relation of the pairs (handler in service on top, handler that
  may be entered on top of it). That the foreground may always be preempted is not in the list (R226). -/
  preempt : List (IrqId × IrqId)
  deriving DecidableEq, Repr

/-- MAX_CHANNELS = N_BLOCKS * LANES_PER_BLOCK (R7, R11). -/
def Config.maxChannels (c : Config) : Nat := c.nBlocks * c.lanesPerBlock

/-- The constraint column of the table of R7: the values the spec admits. -/
abbrev Config.Valid (c : Config) : Prop :=
  1 ≤ c.lanesPerBlock ∧ 1 ≤ c.nBlocks ∧ c.irqBlocks.Nodup ∧ (∀ b ∈ c.irqBlocks, b < c.nBlocks) ∧
  4 ≤ c.txqDepth ∧ 1 ≤ c.rxqDepth ∧
  [c.cmdStartBit, c.cmdStopBit, c.cmdReplyBit, c.cmdNackBit].Nodup ∧ c.engineMaxOwed ≠ some 0

/-- The configuration of `State.reset`: the decided defaults of R7 (D1, D2, D5, D8, D9: log 3), and for the
OPEN parameters the configuration of the spec's program P1 (95_test_vectors.md), "the tightest values":
N_BLOCKS = 1, TXQ_DEPTH = 4, RXQ_DEPTH = 1, ENGINE_MAX_OWED = 1, no nesting. DESIGN CHOICE, unsafe: log 2. -/
def Config.default : Config where
  lanesPerBlock := 4
  nBlocks := 1
  irqBlocks := [0]
  txqDepth := 4
  rxqDepth := 1
  cmdStartBit := 23
  cmdStopBit := 22
  cmdReplyBit := 21
  cmdNackBit := 20
  rspNackBit := 20
  engineMaxOwed := some 1
  preempt := []

end Sys2Proof
end

