-- ==== Sys2Proof/Syntax.lean ====
section
/-! DEFINITION. The instructions: one constructor per row of spec/opcode_table.json, that is the 14 operations of 30_encoding.md table T3 (R71) and the 3 word formats of tables T1 and T2 (R61, R66), with their operands. -/

namespace Sys2Proof

/-- "One of three fixed bit rates" (R7, D26): two names are the source's, the third is the spec's. -/
inductive SpeedClass where
  | standard
  | fast
  | speed3
  deriving DecidableEq, Repr

/-- A handler reference: opaque to the block, which stores it and hands it to the dispatcher (R145, D34).
The number only tells references apart. -/
structure HandlerRef where
  ref : Nat
  deriving DecidableEq, Repr

/-- A flag set: a subset of the five names START, STOP, REPLY, ACK, NACK (R8, R63), one membership bit each. -/
structure FlagSet where
  start : Bool
  stop : Bool
  reply : Bool
  ack : Bool
  nack : Bool
  deriving DecidableEq, Repr

/-- The empty flag set, which means ACK by default (R63). -/
def FlagSet.empty : FlagSet := ⟨false, false, false, false, false⟩

/-- One operation of the block, or one word of a queue being consumed. A channel operand is a number that
need not name a created channel: the meaning checks it (R217). -/
inductive Instr where
  /-- ENCODE (R90). -/
  | encode (data : Byte) (flags : FlagSet)
  /-- DECODE (R93). -/
  | decode (word : Word)
  /-- CREATE_CHANNEL (R110). -/
  | createChannel (sdaPin : Nat) (speed : SpeedClass)
  /-- DESCRIBE_CHANNELS (R114). -/
  | describeChannels
  /-- SUBMIT (R120). -/
  | submit (channel : Nat) (data : Byte) (flags : FlagSet)
  /-- RECEIVE (R121). -/
  | receive (channel : Nat)
  /-- BIND_OUTBOUND_HANDLER (R140). -/
  | bindOutboundHandler (channel : Nat) (handler : HandlerRef)
  /-- BIND_INBOUND_HANDLER (R141). -/
  | bindInboundHandler (channel : Nat) (handler : HandlerRef)
  /-- SET_OUTBOUND_INTERRUPT (R142). -/
  | setOutboundInterrupt (channel : Nat) (enabled : Bool)
  /-- SET_INBOUND_INTERRUPT (R143). -/
  | setInboundInterrupt (channel : Nat) (enabled : Bool)
  /-- ENGINE_TAKE (R160). -/
  | engineTake (channel : Nat)
  /-- ENGINE_GIVE (R161); the word is the engine's draw. -/
  | engineGive (channel : Nat) (word : Word)
  /-- IRQ_ENTER (R222). -/
  | irqEnter (block : Nat) (cls : IrqClass)
  /-- IRQ_RETURN (R224). -/
  | irqReturn (block : Nat) (cls : IrqClass)
  /-- CMD.TX: the transmit command word (`reply` = 0) of table T1, in the outbound queue of `channel`; the channel is
  where the word stands, not a field of it (R40, R60, R61). -/
  | cmdTx (channel : Nat) (data : Byte) (start stop nack : Bool)
  /-- CMD.RX: the read command word (`reply` = 1) of table T1; `data` is a placeholder (R61, R65). -/
  | cmdRx (channel : Nat) (data : Byte) (start stop nack : Bool)
  /-- RSP: the response word of table T2, in the inbound queue of `channel`; `ignored` are its bits 23..0 less the
  status bit, which DECODE does not read (R66). -/
  | rsp (channel : Nat) (data : Byte) (nackStatus : Bool) (ignored : BitVec 24)
  deriving DecidableEq, Repr

end Sys2Proof
end

