-- ==== Sys2Proof/Decode.lean ====
section
/-! DEFINITION. The two word formats, 30_encoding.md tables T1 and T2: assembling and reading a command word (R61, R63, R67), reading a response word (R66, R93), the decoder of a queue's word, the encoder, and the host's numbering of the opcode table. The operations of table T3 have no binary encoding (R71, D23): `encode` gives them no word. -/

namespace Sys2Proof

/-- A flag set is valid iff it does not contain both ACK and NACK (R64). -/
def FlagSet.valid (f : FlagSet) : Bool := !(f.ack && f.nack)

/-- `bit(b) << n` of R67: a word with the bit `n` set iff `b`. -/
def bitAt (b : Bool) (n : Nat) : Word := (BitVec.ofBool b).setWidth 32 <<< n

/-- `zext_32(data) << CMD_DATA_LSB` of R67. -/
def dataField (data : Byte) : Word := data.setWidth 32 <<< dataLsb

/-- The command word with these field values: R67 and table T1. -/
def commandWord (c : Config) (data : Byte) (start stop reply nack : Bool) : Word :=
  dataField data ||| bitAt start c.cmdStartBit ||| bitAt stop c.cmdStopBit |||
    bitAt reply c.cmdReplyBit ||| bitAt nack c.cmdNackBit

/-- ENCODE as a function (R90): the word, or none for a flag set that has no encoding (R91). ACK contributes no
bit (R63). -/
def encodeOperands (c : Config) (data : Byte) (f : FlagSet) : Option Word :=
  if f.valid then some (commandWord c data f.start f.stop f.reply f.nack) else none

/-- `word[31:24]`, the data field of either format (R61, R66). -/
def wordData (w : Word) : Byte := w.extractLsb' dataLsb 8

/-- The `reply` bit of a command word (R61). -/
def wordReply (c : Config) (w : Word) : Bool := w.getLsbD c.cmdReplyBit

/-- DECODE's acknowledge (R93, R94): true iff the negative-logic status bit is 0. -/
def responseAck (c : Config) (w : Word) : Bool := !w.getLsbD c.rspNackBit

/-- DECODE as a function (R93): total on every word. -/
def decodeResponseWord (c : Config) (w : Word) : Byte × Bool := (wordData w, responseAck c w)

/-- The bits a command word's fields occupy; every other bit is 0 in a word ENCODE produces (R61, D4). -/
def commandBits (c : Config) : Word := commandWord c 0xFF#8 true true true true

/-- Whether ENCODE can have produced the word: no bit outside the fields is set (R61, R69). -/
def isCommandWord (c : Config) (w : Word) : Bool := (w &&& ~~~(commandBits c)) == 0#32

/-- The queue a word travels in, which fixes its format (R60). -/
inductive QueueKind where
  | outbound
  | inbound
  deriving DecidableEq, Repr

/-- Why a word is no instruction. -/
inductive DecodeError where
  /-- A command word with a bit set outside its fields: "unreachable", and "what the engine would do with one is
  outside the block" (R69). -/
  | unusedBitsSet
  deriving DecidableEq, Repr

/-- What the decoder answers. -/
inductive Decoded where
  | ok (i : Instr)
  | rejected (e : DecodeError)
  deriving DecidableEq, Repr

/-- Table T1 read backwards: the format CMD.RX or CMD.TX by the `reply` bit, and the fields. -/
def decodeCommand (c : Config) (ch : Nat) (w : Word) : Decoded :=
  if isCommandWord c w then
    if wordReply c w then
      .ok (.cmdRx ch (wordData w) (w.getLsbD c.cmdStartBit) (w.getLsbD c.cmdStopBit) (w.getLsbD c.cmdNackBit))
    else
      .ok (.cmdTx ch (wordData w) (w.getLsbD c.cmdStartBit) (w.getLsbD c.cmdStopBit) (w.getLsbD c.cmdNackBit))
  else .rejected .unusedBitsSet

/-- The bits 23..0 of a response word less its status bit: ignored by DECODE (R66). -/
def responseIgnored (c : Config) (w : Word) : BitVec 24 :=
  w.setWidth 24 &&& ~~~(1#24 <<< c.rspNackBit.val)

/-- Table T2 read backwards: "every 32-bit value is a legal response word" (R66). -/
def decodeResponse (c : Config) (ch : Nat) (w : Word) : Instr :=
  .rsp ch (wordData w) (w.getLsbD c.rspNackBit) (responseIgnored c w)

/-- The decoder: a word standing in a queue of channel `ch`. "The format is fixed by the queue it travels in" (R60). -/
def decodeWord (c : Config) (k : QueueKind) (ch : Nat) (w : Word) : Decoded :=
  match k with
  | .outbound => decodeCommand c ch w
  | .inbound => .ok (decodeResponse c ch w)

/-- The response word with these field values: table T2. -/
def responseWord (c : Config) (data : Byte) (nackStatus : Bool) (ignored : BitVec 24) : Word :=
  dataField data ||| bitAt nackStatus c.rspNackBit ||| ignored.setWidth 32

/-- The encoder: the words of an instruction, none for an operation selected by name (R71, D23). -/
def encode (c : Config) : Instr → List Word
  | .cmdTx _ data start stop nack => [commandWord c data start stop false nack]
  | .cmdRx _ data start stop nack => [commandWord c data start stop true nack]
  | .rsp _ data nackStatus ignored => [responseWord c data nackStatus ignored]
  | .encode _ _ => []
  | .decode _ => []
  | .createChannel _ _ => []
  | .describeChannels => []
  | .submit _ _ _ => []
  | .receive _ => []
  | .bindOutboundHandler _ _ => []
  | .bindInboundHandler _ _ => []
  | .setOutboundInterrupt _ _ => []
  | .setInboundInterrupt _ _ => []
  | .engineTake _ => []
  | .engineGive _ _ => []
  | .irqEnter _ _ => []
  | .irqReturn _ _ => []

/-- The queue an instruction's word travels in (R60); none for an operation selected by name. -/
def queueOf : Instr → Option (QueueKind × Nat)
  | .cmdTx ch _ _ _ _ => some (.outbound, ch)
  | .cmdRx ch _ _ _ _ => some (.outbound, ch)
  | .rsp ch _ _ _ => some (.inbound, ch)
  | .encode _ _ => none
  | .decode _ => none
  | .createChannel _ _ => none
  | .describeChannels => none
  | .submit _ _ _ => none
  | .receive _ => none
  | .bindOutboundHandler _ _ => none
  | .bindInboundHandler _ _ => none
  | .setOutboundInterrupt _ _ => none
  | .setInboundInterrupt _ _ => none
  | .engineTake _ => none
  | .engineGive _ _ => none
  | .irqEnter _ _ => none
  | .irqReturn _ _ => none

/-- The word of an opcode-table row: `nbits` bits, every bit above them 0, at most 32 (R60, R70). -/
def tableWord (nbits w : Nat) : Option Word :=
  if nbits ≤ 32 then some (BitVec.ofNat 32 (w % 2 ^ nbits)) else none

/-- The queue in which a table word is read: the table does not say it, so a word that has the command format is
read as a command and any other word as a response, the only row left for it (log 10, DESIGN CHOICE, safe). -/
def tableQueue (c : Config) (w : Word) : QueueKind := if isCommandWord c w then .outbound else .inbound

/-- The instruction the decoder reads from a table word, in a queue of channel 0, with the default layout (D1, D5). -/
def decodeTableWord (nbits w : Nat) : Option Instr :=
  match tableWord nbits w with
  | none => none
  | some word =>
    match decodeWord Config.default (tableQueue Config.default word) 0 word with
    | .ok i => some i
    | .rejected _ => none

end Sys2Proof
end

