-- ==== Sys2Proof/Machine/State.lean ====
section
/-! DEFINITION. The state of the machine as plain data: the block's tuple (10_state.md R10), the host's context stack (60_exceptions.md R230), the parameters (00_scope.md R7) as a read-only field, and two fields of the model's own (schedule, result); with the reset state (R25, R260). -/

namespace Sys2Proof.Machine

/-- The reasons of a fatal error: "the closed list" of R19 (R210, R211, R212). -/
inductive FatalReason where
  | capacityExceeded
  | handlerAlreadyBound
  | unsupportedBlock
  deriving DecidableEq, Repr

/-- `chan[i]`: the attributes of a channel (R12). -/
structure ChannelRecord where
  sdaPin : Nat
  speed : SpeedClass
  block : Nat
  lane : Nat
  outIrqId : Option IrqId
  inIrqId : Option IrqId
  deriving DecidableEq, Repr

/-- Everything a created channel has: its record (R12), its queues (R14, R15), its enables (R16) and what the
engine owes it (R20). -/
structure Channel where
  info : ChannelRecord
  txq : List Word
  rxq : List Word
  outEn : Bool
  inEn : Bool
  owed : Nat
  deriving DecidableEq, Repr

/-- `handler[b][c]` and `in_service[b][c]` (R17, R18) of one block and class. -/
structure Slot where
  handler : Option HandlerRef
  inService : Bool
  deriving DecidableEq, Repr

/-- The two slots of one block of IRQ_BLOCKS: "exactly one outbound and one inbound handler per supported block" (R17). -/
structure IrqBlock where
  block : Nat
  outbound : Slot
  inbound : Slot
  deriving DecidableEq, Repr

/-- An operation a host context is held at: only SUBMIT and RECEIVE can wait (R122, R124). -/
inductive HeldOp where
  | submit (channel : Nat) (data : Byte) (flags : FlagSet)
  | receive (channel : Nat)
  deriving DecidableEq, Repr

/-- An execution context of the host (R230). -/
inductive Ctx where
  | foreground
  | irq (id : IrqId)
  deriving DecidableEq, Repr

/-- An interrupt context on the stack, with the operation it is held at. -/
structure IrqFrame where
  id : IrqId
  held : Option HeldOp
  deriving DecidableEq, Repr

/-- `ctx_stack` (R230): the interrupt contexts, the top one first; the bottom, always the foreground, is implied
and has only the operation it is held at. -/
structure ContextStack where
  fgHeld : Option HeldOp
  irqs : List IrqFrame
  deriving DecidableEq, Repr

/-- Who performs an operation (R6). -/
inductive Agent where
  | host (ctx : Ctx)
  | engine (channel : Nat)
  | dispatcher
  deriving DecidableEq, Repr

/-- One attempted step of the environment (DESIGN CHOICE, log 4): an agent performs a named operation, or a word at
the head of a queue is fetched and consumed as an instruction (log 9). -/
inductive Event where
  /-- `agent` performs the operation `op`. -/
  | perform (agent : Agent) (op : Instr)
  /-- Engine(channel) fetches the command word at the head of `txq[channel]`. -/
  | fetchCommand (channel : Nat)
  /-- The host context `ctx` fetches the response word at the head of `rxq[channel]`. -/
  | fetchResponse (ctx : Ctx) (channel : Nat)
  deriving DecidableEq, Repr

/-- One line of the table DESCRIBE_CHANNELS returns (R114). -/
structure ChannelEntry where
  id : Nat
  info : ChannelRecord
  deriving DecidableEq, Repr

/-- What an operation returned (the column "result" of table T3, R71). The model's own (log 6). -/
inductive OpResult where
  /-- "none". -/
  | nothing
  /-- ENCODE, ENGINE_TAKE, CMD.TX, CMD.RX. -/
  | word (w : Word)
  /-- DECODE, RECEIVE, RSP. -/
  | decoded (data : Byte) (ack : Bool)
  /-- CREATE_CHANNEL. -/
  | channelId (id : Nat)
  /-- DESCRIBE_CHANNELS. -/
  | table (rows : List ChannelEntry)
  /-- IRQ_ENTER: the handler invoked, with zero arguments (R223). -/
  | invoked (h : HandlerRef)
  deriving DecidableEq, Repr

/-- Why a run stops with a fault: never. No step of this machine faults: the spec's errors are the fatal latch, which
is state (R19, R213: a next state), and refusals (R216). There is no other error (R218: "No operation raises an
alignment, access, overflow or timeout error"). Nobody raises a fault; safe. -/
inductive Fault
  deriving DecidableEq, Repr

/-- Why an operation has no meaning. -/
inductive Refusal where
  /-- An instruction without a meaning yet: raised only by exec's arms; safe (none is left). -/
  | notModelled (mnemonic : String)
  /-- `Refused(InvalidChannel)` (R217): raised by SUBMIT, RECEIVE, the BINDs and the SETs for an id not below
  `n_channels`; safe. -/
  | invalidChannel
  /-- `Refused(InvalidFlagSet)` (R91, R69): raised by ENCODE and SUBMIT for a flag set with both ACK and NACK; safe. -/
  | invalidFlagSet
  /-- A command word that ENCODE cannot produce is fetched as an instruction: what the engine would do with it "is
  outside the block" (R69); raised by the fetch, not by an instruction; safe (log 11). -/
  | unreachableCommandWord
  deriving DecidableEq, Repr

/-- The state of the machine. -/
structure State where
  /-- The parameters of R7: read by every step, written by none (log 1). -/
  cfg : Config
  /-- The channel table with the queues, enables and owed counts of each channel, by channel id (R10 to R16, R20);
  its length is `n_channels` (R11, log 20). -/
  channels : List Channel
  /-- `handler` and `in_service`, one row per block of IRQ_BLOCKS in the order of `cfg.irqBlocks` (R17, R18). -/
  irqBlocks : List IrqBlock
  /-- `fatal` (R19). -/
  fatal : Option FatalReason
  /-- `ctx_stack`, state of the host agent (R230; log 7). -/
  contexts : ContextStack
  /-- The model's own: the steps the agents are about to attempt, the next one first (log 4). -/
  schedule : List Event
  /-- The model's own: what the last completed operation returned (log 6). -/
  result : OpResult
  deriving DecidableEq, Repr

/-- A slot after reset: nothing bound, nothing in service (R25). -/
def Slot.reset : Slot := ⟨none, false⟩

/-- The state after reset of a block with these parameters (R25, R260): no channel, every slot empty, no fatal error,
the host in the foreground; nothing scheduled and nothing returned (the model's own fields: log 4, log 6). -/
def State.resetOf (c : Config) : State where
  cfg := c
  channels := []
  irqBlocks := c.irqBlocks.map fun b => ⟨b, Slot.reset, Slot.reset⟩
  fatal := none
  contexts := ⟨none, []⟩
  schedule := []
  result := .nothing

/-- The machine right after reset, in the default configuration (log 2, log 3). -/
def State.reset : State := State.resetOf Config.default

end Sys2Proof.Machine
end

