-- ==== Sys2Proof/Machine/Ops.lean ====
section
/-! DEFINITION. The named operations over the state: the queue primitives (00_scope.md R8), rows and slots, the host's contexts and holds (41_transport.md R124, 60_exceptions.md R230), raising a fatal error (R213), entering a handler and returning from one (R222, R224). Every meaning is written over these. -/

namespace Sys2Proof.Machine

/-- What a step and a meaning answer. -/
abbrev Answer := Host.Outcome State Fault Refusal

/-- `QPush(q, w)` (R8): the word becomes the newest. -/
def qPush (q : List Word) (w : Word) : List Word := q ++ [w]

/-- `QPop(q)` (R8): the oldest word and the queue without it; none on an empty queue. -/
def qPop : List Word → Option (Word × List Word)
  | [] => none
  | w :: q => some (w, q)

/-- `n_channels` (R11). -/
def State.nChannels (s : State) : Nat := s.channels.length

/-- The row of a created channel; none iff `ch` is not below `n_channels` (R11, R26). -/
def State.row (s : State) (ch : Nat) : Option Channel := s.channels[ch]?

/-- Replace the row of a created channel; no other row changes. -/
def State.setRow (s : State) (ch : Nat) (r : Channel) : State :=
  { s with channels := s.channels.set ch r }

/-- Record what the completed operation returned (log 6). -/
def State.returning (s : State) (r : OpResult) : State := { s with result := r }

/-- Take a step off the schedule (log 4). -/
def State.withSchedule (s : State) (es : List Event) : State := { s with schedule := es }

/-- The slot of class `c` in a block's row. -/
def IrqBlock.slot (r : IrqBlock) : IrqClass → Slot
  | .outbound => r.outbound
  | .inbound => r.inbound

/-- The row with the slot of class `c` replaced. -/
def IrqBlock.setSlot (r : IrqBlock) (c : IrqClass) (x : Slot) : IrqBlock :=
  match c with
  | .outbound => { r with outbound := x }
  | .inbound => { r with inbound := x }

/-- The slot of block `b`, class `c`; none when the block has no slots (R17: "blocks outside IRQ_BLOCKS have no slot"). -/
def State.slot (s : State) (id : IrqId) : Option Slot :=
  (s.irqBlocks.find? fun r => r.block == id.block).map fun r => r.slot id.cls

/-- Replace one slot by its image under `f`. -/
def State.modifySlot (s : State) (id : IrqId) (f : Slot → Slot) : State :=
  { s with
    irqBlocks := s.irqBlocks.map fun r =>
      if r.block = id.block then r.setSlot id.cls (f (r.slot id.cls)) else r }

/-- `handler[b][c]` (R17). -/
def State.handler (s : State) (id : IrqId) : Option HandlerRef := (s.slot id).bind fun x => x.handler

/-- `in_service[b][c]` (R18). -/
def State.inService (s : State) (id : IrqId) : Bool :=
  match s.slot id with
  | some x => x.inService
  | none => false

/-- `handler[b][c] <- some h`. -/
def State.bindSlot (s : State) (id : IrqId) (h : HandlerRef) : State :=
  s.modifySlot id fun x => { x with handler := some h }

/-- `in_service[b][c] <- v`. -/
def State.setInService (s : State) (id : IrqId) (v : Bool) : State :=
  s.modifySlot id fun x => { x with inService := v }

/-- The operation the context on top is held at, if it is (R124). -/
def ContextStack.topHeld (k : ContextStack) : Option HeldOp :=
  match k.irqs with
  | [] => k.fgHeld
  | f :: _ => f.held

/-- `top(ctx_stack)` (R230). -/
def ContextStack.top (k : ContextStack) : Ctx :=
  match k.irqs with
  | [] => .foreground
  | f :: _ => .irq f.id

/-- Set what the context on top is held at. -/
def ContextStack.setTopHeld (k : ContextStack) (h : Option HeldOp) : ContextStack :=
  match k.irqs with
  | [] => { k with fgHeld := h }
  | f :: fs => { k with irqs := { f with held := h } :: fs }

/-- `push(ctx_stack, irq(b,c))` (R222): the handler's body begins, held at nothing. -/
def ContextStack.push (k : ContextStack) (id : IrqId) : ContextStack :=
  { k with irqs := ⟨id, none⟩ :: k.irqs }

/-- `pop(ctx_stack)` (R224). -/
def ContextStack.pop (k : ContextStack) : ContextStack := { k with irqs := k.irqs.tail }

/-- The context on top waits at this operation: it has performed nothing (R124). -/
def State.hold (s : State) (h : HeldOp) : State := { s with contexts := s.contexts.setTopHeld (some h) }

/-- The context on top is held at nothing. -/
def State.release (s : State) : State := { s with contexts := s.contexts.setTopHeld none }

/-- The wait an instruction is the completion of: SUBMIT and RECEIVE complete their own hold, and consuming the response
word at the head of `rxq[ch]` completes a held RECEIVE of `ch` (R121, R124). -/
def heldOpOf : Instr → Option HeldOp
  | .submit ch data flags => some (.submit ch data flags)
  | .receive ch => some (.receive ch)
  | .rsp ch _ _ _ => some (.receive ch)
  | .encode _ _ => none
  | .decode _ => none
  | .createChannel _ _ => none
  | .describeChannels => none
  | .bindOutboundHandler _ _ => none
  | .bindInboundHandler _ _ => none
  | .setOutboundInterrupt _ _ => none
  | .setInboundInterrupt _ _ => none
  | .engineTake _ => none
  | .engineGive _ _ => none
  | .irqEnter _ _ => none
  | .irqReturn _ _ => none
  | .cmdTx _ _ _ _ _ => none
  | .cmdRx _ _ _ _ _ => none

/-- Whether the host can perform `i` now: the program has not ended (R213), and the context on top is held at nothing
or at this very operation ("the performing agent cannot do anything else in that context", R124). -/
def State.hostAccepts (s : State) (i : Instr) : Bool :=
  s.fatal.isNone &&
    match s.contexts.topHeld with
    | none => true
    | some h => heldOpOf i == some h

/-- `raise Fatal(reason)` (R213): none of the operation's writes, `fatal <- reason` if it was `none`. The host
program ends because no host operation and no dispatcher step has a step while `fatal` is set. -/
def State.raiseFatal (s : State) (r : FatalReason) : State :=
  { s with
    fatal := match s.fatal with
      | none => some r
      | some r' => some r' }

/-- The operation has no step now: it "simply does not happen" (R8 `hold`, R213, R218). Nothing changes (log 8). -/
def State.noStep (s : State) : Answer := .next s

/-- A host operation on a channel: no step if the host cannot perform it, `Refused(InvalidChannel)` if the channel
does not exist (R217), else the operation on its row. -/
def State.onChannel (s : State) (i : Instr) (ch : Nat) (k : Channel → Answer) : Answer :=
  if s.hostAccepts i then
    match s.row ch with
    | none => .refused .invalidChannel
    | some r => k r
  else s.noStep

/-- Taking an interrupt (R222): `in_service[b][c] <- true`, the context is pushed, the handler is invoked with zero
arguments (R223). Nothing else is saved or changed. -/
def State.enterHandler (s : State) (id : IrqId) (h : HandlerRef) : State :=
  { (s.setInService id true) with contexts := s.contexts.push id, result := .invoked h }

/-- Returning from a handler (R224): the context is popped, `in_service[b][c] <- false`. Nothing is restored because
nothing was saved. -/
def State.returnHandler (s : State) (id : IrqId) : State :=
  { (s.setInService id false) with contexts := s.contexts.pop, result := .nothing }

/-- The engine owes fewer responses than ENGINE_MAX_OWED (R169); always so when that is unbounded. -/
def mayOweMore (c : Config) (owed : Nat) : Bool :=
  match c.engineMaxOwed with
  | none => true
  | some m => owed < m

/-- `may_preempt(ctx, (b,c))` (R226): always from the foreground, as the parameter says from a handler. -/
def mayPreempt (c : Config) (k : Ctx) (id : IrqId) : Bool :=
  match k with
  | .foreground => true
  | .irq outer => (outer, id) ∈ c.preempt

end Sys2Proof.Machine
end

