-- ==== Sys2Proof/Machine/Operands.lean ====
section
/-! DEFINITION. Operand forms: the lane placement of a new channel (41_transport.md R110, R112), the flag set's fields (30_encoding.md R63), and the address bytes ADDR_W and ADDR_R (R68), which are ordinary `data` operands. -/

namespace Sys2Proof.Machine

/-- "block = id / lanes_per_block" (R110, R112). -/
def blockOf (c : Config) (id : Nat) : Nat := id / c.lanesPerBlock

/-- "lane = id % lanes_per_block" (R110, R112). -/
def laneOf (c : Config) (id : Nat) : Nat := id % c.lanesPerBlock

/-- The row CREATE_CHANNEL makes (R110): recorded pin and speed, the placement of the id, no interrupt id, empty
queues, nothing armed, nothing owed. -/
def newChannel (c : Config) (id sdaPin : Nat) (speed : SpeedClass) : Channel where
  info := ⟨sdaPin, speed, blockOf c id, laneOf c id, none, none⟩
  txq := []
  rxq := []
  outEn := false
  inEn := false
  owed := 0

/-- `ADDR_W(a) = (a << 1) | 0` for a 7-bit address (R68). -/
def addrW (a : BitVec 7) : Byte := a.setWidth 8 <<< 1

/-- `ADDR_R(a) = (a << 1) | 1` for a 7-bit address (R68). -/
def addrR (a : BitVec 7) : Byte := (a.setWidth 8 <<< 1) ||| 1#8

/-- The interrupt id of a class on a channel's record (R12). -/
def ChannelRecord.irqIdOf (r : ChannelRecord) : IrqClass → Option IrqId
  | .outbound => r.outIrqId
  | .inbound => r.inIrqId

/-- The record with the interrupt id of a class set (R140, R141, R150). -/
def ChannelRecord.withIrqId (r : ChannelRecord) (c : IrqClass) (id : IrqId) : ChannelRecord :=
  match c with
  | .outbound => { r with outIrqId := some id }
  | .inbound => { r with inIrqId := some id }

/-- The enable bit of a class on a channel (R16). -/
def Channel.enabled (r : Channel) : IrqClass → Bool
  | .outbound => r.outEn
  | .inbound => r.inEn

/-- The row with the enable bit of a class written (R142, R143). -/
def Channel.withEnabled (r : Channel) (c : IrqClass) (v : Bool) : Channel :=
  match c with
  | .outbound => { r with outEn := v }
  | .inbound => { r with inEn := v }

end Sys2Proof.Machine
end

