-- ==== Sys2Proof/Machine/Flags.lean ====
section
/-! DEFINITION. The derived signals, never stored: the ready flags (10_state.md R21) and the interrupt requests (R22), level-sensitive and without a latch (60_exceptions.md R221). -/

namespace Sys2Proof.Machine

/-- `tx_ready[ch]`: "outbound queue has room" (R21). -/
def txReady (c : Config) (r : Channel) : Bool := r.txq.length < c.txqDepth

/-- `rx_ready[ch]`: "inbound queue has data" (R21). -/
def rxReady (r : Channel) : Bool := 0 < r.rxq.length

/-- The inbound queue has room for a response (R161, R163). -/
def rxRoom (c : Config) (r : Channel) : Bool := r.rxq.length < c.rxqDepth

/-- The ready flag of a class (R21). -/
def ready (c : Config) (r : Channel) : IrqClass → Bool
  | .outbound => txReady c r
  | .inbound => rxReady r

/-- A channel's contribution to the request of a class: enabled and ready (R22, R220). -/
def Channel.requests (c : Config) (r : Channel) (k : IrqClass) : Bool := r.enabled k && ready c r k

/-- `irq_req[b][c]` (R22): some channel of the block has the condition enabled and holding. -/
def State.irqReq (s : State) (id : IrqId) : Bool :=
  s.channels.any fun r => r.info.block == id.block && r.requests s.cfg id.cls

end Sys2Proof.Machine
end

