-- ==== Sys2Proof/Machine/Codec.lean ====
section
/-! DEFINITION. The transport codec (40_codec.md): ENCODE, DECODE. "Pure, stateless, bit-exact": neither reads or writes any state of the block, `fatal` included (R24, 40_codec.md introduction); only the result is recorded (log 6). -/

namespace Sys2Proof.Machine

/-- ENCODE (R90): the command word, or `Refused(InvalidFlagSet)` (R91). -/
def execEncode (data : Byte) (flags : FlagSet) (s : State) : Answer :=
  match encodeOperands s.cfg data flags with
  | none => .refused .invalidFlagSet
  | some w => .next (s.returning (.word w))

/-- DECODE (R93): total. -/
def execDecode (word : Word) (s : State) : Answer :=
  .next (s.returning (.decoded (decodeResponseWord s.cfg word).1 (decodeResponseWord s.cfg word).2))

end Sys2Proof.Machine
end

