-- ==== Sys2Proof/Machine/Dispatcher.lean ====
section
/-! DEFINITION. The dispatcher (60_exceptions.md): IRQ_ENTER, IRQ_RETURN. -/

namespace Sys2Proof.Machine

/-- The `requires` of R222, but for the bound handler, which the meaning looks up. -/
def State.canEnter (s : State) (id : IrqId) : Bool :=
  s.fatal.isNone && decide (id.block ∈ s.cfg.irqBlocks) && s.irqReq id && !s.inService id &&
    mayPreempt s.cfg s.contexts.top id

/-- IRQ_ENTER (R222). -/
def execIrqEnter (block : Nat) (cls : IrqClass) (s : State) : Answer :=
  match s.handler ⟨block, cls⟩ with
  | none => s.noStep
  | some h => if s.canEnter ⟨block, cls⟩ then .next (s.enterHandler ⟨block, cls⟩ h) else s.noStep

/-- The `requires` of R224: no fatal error, the handler's context on top, its body at its end. The block does not see
the body: that it has ended is what the environment says by performing the return (log 17), and a context held
at an operation has not ended (R124). -/
def State.canReturn (s : State) (id : IrqId) : Bool :=
  s.fatal.isNone && s.contexts.top == .irq id && s.contexts.topHeld.isNone

/-- IRQ_RETURN (R224). -/
def execIrqReturn (block : Nat) (cls : IrqClass) (s : State) : Answer :=
  if s.canReturn ⟨block, cls⟩ then .next (s.returnHandler ⟨block, cls⟩) else s.noStep

end Sys2Proof.Machine
end

