-- ==== Sys2Proof/Machine/Engine.lean ====
section
/-! DEFINITION. The engine side of the queues (43_engine_side.md): ENGINE_TAKE, ENGINE_GIVE. They read and write only `txq`, `rxq` and `owed` of their channel (R167) and stay enabled after a fatal error (R168). -/

namespace Sys2Proof.Machine

/-- Consuming the command word `w` at the head of `txq[ch]`: the word goes, and a response is owed iff its `reply` bit
is set (R160, R164). -/
def State.takeWord (s : State) (ch : Nat) (r : Channel) (w : Word) (q : List Word) : State :=
  (s.setRow ch { r with txq := q, owed := if wordReply s.cfg w then r.owed + 1 else r.owed }).returning (.word w)

/-- ENGINE_TAKE (R160, R169): no step on a channel that does not exist, on an empty queue, or while ENGINE_MAX_OWED
responses are owed. -/
def execEngineTake (channel : Nat) (s : State) : Answer :=
  match s.row channel with
  | none => s.noStep
  | some r =>
    match qPop r.txq with
    | none => s.noStep
    | some (w, q) => if mayOweMore s.cfg r.owed then .next (s.takeWord channel r w q) else s.noStep

/-- ENGINE_GIVE (R161, R163): no step on a channel that does not exist, with nothing owed, or on a full inbound queue.
The word is the engine's draw. -/
def execEngineGive (channel : Nat) (word : Word) (s : State) : Answer :=
  match s.row channel with
  | none => s.noStep
  | some r =>
    if 0 < r.owed ∧ rxRoom s.cfg r then
      .next ((s.setRow channel { r with rxq := qPush r.rxq word, owed := r.owed - 1 }).returning .nothing)
    else s.noStep

end Sys2Proof.Machine
end

