-- ==== Sys2Proof/Machine/InterruptControl.lean ====
section
/-! DEFINITION. Handler binding and interrupt enable (42_interrupt_control.md): BIND_OUTBOUND_HANDLER, BIND_INBOUND_HANDLER, SET_OUTBOUND_INTERRUPT, SET_INBOUND_INTERRUPT. -/

namespace Sys2Proof.Machine

/-- The body R140 and R141 share: `UnsupportedBlock`, `HandlerAlreadyBound`, then the slot and the interrupt id of the
named channel only (R150). -/
def State.bindHandler (s : State) (channel : Nat) (r : Channel) (c : IrqClass) (h : HandlerRef) : Answer :=
  if r.info.block ∈ s.cfg.irqBlocks then
    if (s.handler ⟨r.info.block, c⟩).isSome then .next (s.raiseFatal .handlerAlreadyBound)
    else
      .next (((s.bindSlot ⟨r.info.block, c⟩ h).setRow channel
        { r with info := r.info.withIrqId c (irqId r.info.block c) }).returning .nothing)
  else .next (s.raiseFatal .unsupportedBlock)

/-- BIND_OUTBOUND_HANDLER (R140). -/
def execBindOutboundHandler (channel : Nat) (handler : HandlerRef) (s : State) : Answer :=
  s.onChannel (.bindOutboundHandler channel handler) channel fun r => s.bindHandler channel r .outbound handler

/-- BIND_INBOUND_HANDLER (R141). -/
def execBindInboundHandler (channel : Nat) (handler : HandlerRef) (s : State) : Answer :=
  s.onChannel (.bindInboundHandler channel handler) channel fun r => s.bindHandler channel r .inbound handler

/-- SET_OUTBOUND_INTERRUPT (R142): the enable bit only; no handler need be bound (R147, R148). -/
def execSetOutboundInterrupt (channel : Nat) (enabled : Bool) (s : State) : Answer :=
  s.onChannel (.setOutboundInterrupt channel enabled) channel fun r =>
    .next ((s.setRow channel (r.withEnabled .outbound enabled)).returning .nothing)

/-- SET_INBOUND_INTERRUPT (R143). -/
def execSetInboundInterrupt (channel : Nat) (enabled : Bool) (s : State) : Answer :=
  s.onChannel (.setInboundInterrupt channel enabled) channel fun r =>
    .next ((s.setRow channel (r.withEnabled .inbound enabled)).returning .nothing)

end Sys2Proof.Machine
end

