-- ==== Sys2Proof/Machine/Transport.lean ====
section
/-! DEFINITION. Channel creation and the queue operations of the host (41_transport.md): CREATE_CHANNEL, DESCRIBE_CHANNELS, SUBMIT, RECEIVE. None has a step once `fatal` is set (60_exceptions.md R213). -/

namespace Sys2Proof.Machine

/-- CREATE_CHANNEL (R110, R113). -/
def execCreateChannel (sdaPin : Nat) (speed : SpeedClass) (s : State) : Answer :=
  if s.hostAccepts (.createChannel sdaPin speed) then
    if s.nChannels = s.cfg.maxChannels then .next (s.raiseFatal .capacityExceeded)
    else
      .next { s with
        channels := s.channels ++ [newChannel s.cfg s.nChannels sdaPin speed]
        result := .channelId s.nChannels }
  else s.noStep

/-- The lines of the channel table from id `n` on (R114). -/
def describeFrom (n : Nat) : List Channel → List ChannelEntry
  | [] => []
  | r :: rs => ⟨n, r.info⟩ :: describeFrom (n + 1) rs

/-- DESCRIBE_CHANNELS (R114): the channel table as a value. -/
def execDescribeChannels (s : State) : Answer :=
  if s.hostAccepts .describeChannels then .next (s.returning (.table (describeFrom 0 s.channels)))
  else s.noStep

/-- SUBMIT (R120): the checks, then the hold while the outbound queue is full (R124), then the append. -/
def execSubmit (channel : Nat) (data : Byte) (flags : FlagSet) (s : State) : Answer :=
  s.onChannel (.submit channel data flags) channel fun r =>
    match encodeOperands s.cfg data flags with
    | none => .refused .invalidFlagSet
    | some w =>
      if txReady s.cfg r then
        .next (((s.setRow channel { r with txq := qPush r.txq w }).release).returning .nothing)
      else .next (s.hold (.submit channel data flags))

/-- Removing the oldest response word and decoding it (R121), the hold over. -/
def State.receiveWord (s : State) (channel : Nat) (r : Channel) (w : Word) (q : List Word) : State :=
  ((s.setRow channel { r with rxq := q }).release).returning
    (.decoded (decodeResponseWord s.cfg w).1 (decodeResponseWord s.cfg w).2)

/-- RECEIVE (R121): the check, then the hold while the inbound queue is empty (R124), then the removal. -/
def execReceive (channel : Nat) (s : State) : Answer :=
  s.onChannel (.receive channel) channel fun r =>
    match qPop r.rxq with
    | none => .next (s.hold (.receive channel))
    | some (w, q) => .next (s.receiveWord channel r w q)

end Sys2Proof.Machine
end

