-- ==== Sys2Proof/Machine/WordFormats.lean ====
section
/-! DEFINITION. The word formats CMD.TX, CMD.RX and RSP (30_encoding.md R61, R65, R66) as instructions: a word stands at the head of its queue and is consumed by the agent at the other end (R60, R162; log 9). When another word, or none, stands there the instruction has no step. -/

namespace Sys2Proof.Machine

/-- Engine(ch) consumes the command word `w`: the step of ENGINE_TAKE (R160, R169) when that word is at the head. -/
def State.consumeCommand (s : State) (ch : Nat) (w : Word) : Answer :=
  match s.row ch with
  | none => s.noStep
  | some r =>
    match qPop r.txq with
    | none => s.noStep
    | some (w', q) => if w' = w ∧ mayOweMore s.cfg r.owed then .next (s.takeWord ch r w q) else s.noStep

/-- CMD.TX (R61, R164): consumed by the engine, no response is owed for it. -/
def execCmdTx (channel : Nat) (data : Byte) (start stop nack : Bool) (s : State) : Answer :=
  s.consumeCommand channel (commandWord s.cfg data start stop false nack)

/-- CMD.RX (R61, R164): consumed by the engine, one response is owed for it. -/
def execCmdRx (channel : Nat) (data : Byte) (start stop nack : Bool) (s : State) : Answer :=
  s.consumeCommand channel (commandWord s.cfg data start stop true nack)

/-- RSP (R66, R93, R121): consumed and decoded by the host, as RECEIVE does with it. -/
def execRsp (channel : Nat) (data : Byte) (nackStatus : Bool) (ignored : BitVec 24) (s : State) : Answer :=
  if s.hostAccepts (.rsp channel data nackStatus ignored) then
    match s.row channel with
    | none => s.noStep
    | some r =>
      match qPop r.rxq with
      | none => s.noStep
      | some (w, q) =>
        if w = responseWord s.cfg data nackStatus ignored then .next (s.receiveWord channel r w q) else s.noStep
  else s.noStep

end Sys2Proof.Machine
end

