-- ==== Sys2Proof/Machine/Dispatch.lean ====
section
/-! DEFINITION. The meaning of each instruction, by name: one arm per constructor, in the order of spec/opcode_table.json. -/

namespace Sys2Proof.Machine

def exec (i : Instr) (s : State) : Host.Outcome State Fault Refusal :=
  match i with
  | .encode data flags => Sys2Proof.Machine.execEncode data flags s
  | .decode word => Sys2Proof.Machine.execDecode word s
  | .createChannel sdaPin speed => Sys2Proof.Machine.execCreateChannel sdaPin speed s
  | .describeChannels => Sys2Proof.Machine.execDescribeChannels s
  | .submit channel data flags => Sys2Proof.Machine.execSubmit channel data flags s
  | .receive channel => Sys2Proof.Machine.execReceive channel s
  | .bindOutboundHandler channel handler => Sys2Proof.Machine.execBindOutboundHandler channel handler s
  | .bindInboundHandler channel handler => Sys2Proof.Machine.execBindInboundHandler channel handler s
  | .setOutboundInterrupt channel enabled => Sys2Proof.Machine.execSetOutboundInterrupt channel enabled s
  | .setInboundInterrupt channel enabled => Sys2Proof.Machine.execSetInboundInterrupt channel enabled s
  | .engineTake channel => Sys2Proof.Machine.execEngineTake channel s
  | .engineGive channel word => Sys2Proof.Machine.execEngineGive channel word s
  | .irqEnter block cls => Sys2Proof.Machine.execIrqEnter block cls s
  | .irqReturn block cls => Sys2Proof.Machine.execIrqReturn block cls s
  | .cmdTx channel data start stop nack => Sys2Proof.Machine.execCmdTx channel data start stop nack s
  | .cmdRx channel data start stop nack => Sys2Proof.Machine.execCmdRx channel data start stop nack s
  | .rsp channel data nackStatus ignored => Sys2Proof.Machine.execRsp channel data nackStatus ignored s

end Sys2Proof.Machine
end

