-- ==== Sys2Proof/Machine/Fetch.lean ====
section
/-! DEFINITION. Which instruction the next event is: the agents and what each may perform (00_scope.md R6), fetching a word from the head of a queue (20_memory.md R40, 30_encoding.md R60), and placing a word where the fetch finds it. -/

namespace Sys2Proof.Machine

/-- Whether the row of a table of R6 gives the host the operation: the ten host operations of table T3 and the
consumption of a response word. -/
def isHostOp : Instr → Bool
  | .encode _ _ => true
  | .decode _ => true
  | .createChannel _ _ => true
  | .describeChannels => true
  | .submit _ _ _ => true
  | .receive _ => true
  | .bindOutboundHandler _ _ => true
  | .bindInboundHandler _ _ => true
  | .setOutboundInterrupt _ _ => true
  | .setInboundInterrupt _ _ => true
  | .rsp _ _ _ _ => true
  | .engineTake _ => false
  | .engineGive _ _ => false
  | .irqEnter _ _ => false
  | .irqReturn _ _ => false
  | .cmdTx _ _ _ _ _ => false
  | .cmdRx _ _ _ _ _ => false

/-- The engine channel an instruction belongs to, if it is an engine step. -/
def engineChannel : Instr → Option Nat
  | .engineTake ch => some ch
  | .engineGive ch _ => some ch
  | .cmdTx ch _ _ _ _ => some ch
  | .cmdRx ch _ _ _ _ => some ch
  | .encode _ _ => none
  | .decode _ => none
  | .createChannel _ _ => none
  | .describeChannels => none
  | .submit _ _ _ => none
  | .receive _ => none
  | .bindOutboundHandler _ _ => none
  | .bindInboundHandler _ _ => none
  | .setOutboundInterrupt _ _ => none
  | .setInboundInterrupt _ _ => none
  | .irqEnter _ _ => none
  | .irqReturn _ _ => none
  | .rsp _ _ _ _ => none

/-- The dispatcher's two operations. -/
def isDispatcherOp : Instr → Bool
  | .irqEnter _ _ => true
  | .irqReturn _ _ => true
  | .encode _ _ => false
  | .decode _ => false
  | .createChannel _ _ => false
  | .describeChannels => false
  | .submit _ _ _ => false
  | .receive _ => false
  | .bindOutboundHandler _ _ => false
  | .bindInboundHandler _ _ => false
  | .setOutboundInterrupt _ _ => false
  | .setInboundInterrupt _ _ => false
  | .engineTake _ => false
  | .engineGive _ _ => false
  | .cmdTx _ _ _ _ _ => false
  | .cmdRx _ _ _ _ _ => false
  | .rsp _ _ _ _ => false

/-- The codec operations, which "any agent" may perform (40_codec.md introduction; agent "any" in the opcode table). -/
def isCodecOp : Instr → Bool
  | .encode _ _ => true
  | .decode _ => true
  | .createChannel _ _ => false
  | .describeChannels => false
  | .submit _ _ _ => false
  | .receive _ => false
  | .bindOutboundHandler _ _ => false
  | .bindInboundHandler _ _ => false
  | .setOutboundInterrupt _ _ => false
  | .setInboundInterrupt _ _ => false
  | .engineTake _ => false
  | .engineGive _ _ => false
  | .irqEnter _ _ => false
  | .irqReturn _ _ => false
  | .cmdTx _ _ _ _ _ => false
  | .cmdRx _ _ _ _ _ => false
  | .rsp _ _ _ _ => false

/-- Whether the agent may perform the operation now. A host context must be on top of the stack (R225, R230) and able to
act, the codec operations included (R213, R124; 90_conflicts.md C13); an engine performs its own channel's steps
(R166); the dispatcher enters and returns. -/
def State.mayPerform (s : State) (a : Agent) (i : Instr) : Bool :=
  match a with
  | .host k => s.contexts.top == k && isHostOp i && s.hostAccepts i
  | .engine ch => engineChannel i == some ch || isCodecOp i
  | .dispatcher => isDispatcherOp i || isCodecOp i

/-- What the next event selects. -/
inductive Selection where
  | run (i : Instr)
  | noStep
  | refuse (r : Refusal)
  deriving DecidableEq, Repr

/-- The oldest word of `txq[ch]` or `rxq[ch]`, not removed. -/
def State.headWord (s : State) (k : QueueKind) (ch : Nat) : Option Word :=
  match s.row ch with
  | none => none
  | some r =>
    match k with
    | .outbound => r.txq.head?
    | .inbound => r.rxq.head?

/-- Fetch and decode the word at the head of a queue. A command word that ENCODE cannot produce is refused by name
(R69; log 11). -/
def State.fetch (s : State) (k : QueueKind) (ch : Nat) : Selection :=
  match s.headWord k ch with
  | none => .noStep
  | some w =>
    match decodeWord s.cfg k ch w with
    | .ok i => .run i
    | .rejected .unusedBitsSet => .refuse .unreachableCommandWord

/-- The instruction an event is, in this state. -/
def State.select (s : State) : Event → Selection
  | .perform a i => if s.mayPerform a i then .run i else .noStep
  | .fetchCommand ch => s.fetch .outbound ch
  | .fetchResponse k ch =>
    if s.contexts.top == k && s.hostAccepts (.receive ch) then s.fetch .inbound ch else .noStep

/-- Channel 0's row, or the row its creation gives if no channel exists (log 5). -/
def State.loadRow (s : State) : Channel :=
  match s.row 0 with
  | some r => r
  | none => newChannel s.cfg 0 0 .standard

/-- `s` with channel 0 existing and holding this row (log 5). -/
def State.putRow0 (s : State) (r : Channel) : State :=
  { s with channels := r :: s.channels.tail }

/-- The owed count under which the engine takes a word: unchanged unless the engine is at its limit (R169). -/
def loadOwed (c : Config) (r : Channel) : Nat := if mayOweMore c r.owed then r.owed else 0

/-- The word stands at the head of `txq[0]`, the engine can take it, and fetching it is the next event. -/
def State.placeCommand (s : State) (w : Word) : State :=
  (s.putRow0 { s.loadRow with txq := w :: s.loadRow.txq.tail, owed := loadOwed s.cfg s.loadRow }).withSchedule
    (.fetchCommand 0 :: s.schedule)

/-- The word stands at the head of `rxq[0]`, the host can receive it, and fetching it is the next event. -/
def State.placeResponse (s : State) (w : Word) : State :=
  { (s.putRow0 { s.loadRow with rxq := w :: s.loadRow.rxq.tail }).release with
    fatal := none
    schedule := .fetchResponse s.contexts.top 0 :: s.schedule }

/-- The word placed in the queue that fixes its format as `tableQueue` reads it. -/
def State.placeWord (s : State) (w : Word) : State :=
  match tableQueue s.cfg w with
  | .outbound => s.placeCommand w
  | .inbound => s.placeResponse w

end Sys2Proof.Machine
end

