-- ==== Sys2Proof/Machine/Step.lean ====
section
/-! DEFINITION. One step: the next event of the schedule is taken, and the instruction it selects is executed. An operation that has no step leaves the state as it is (log 8); with an empty schedule no agent acts. -/

namespace Sys2Proof.Machine

/-- One step of the machine: one atomic operation of one agent (R6, R47). -/
def step (s : State) : Host.Outcome State Fault Refusal :=
  match s.schedule with
  | [] => .next s
  | e :: es =>
    match (s.withSchedule es).select e with
    | .run i => exec i (s.withSchedule es)
    | .noStep => .next (s.withSchedule es)
    | .refuse r => .refused r

/-- The state whose next step fetches and runs the table word (log 5); a row wider than 32 bits has no word (R70). -/
def State.withFetchWord (s : State) (nbits w : Nat) : State :=
  match tableWord nbits w with
  | none => s
  | some word => s.placeWord word

end Sys2Proof.Machine
end

