-- ==== Sys2Proof/Machine/Enabled.lean ====
section
/-! DEFINITION. When an operation has a step: the `requires` and `hold until` conditions of the spec, one by one (00_scope.md R8, 41_transport.md R124, 43_engine_side.md R160, R161, 60_exceptions.md R213, R222, R224). A refusal is a step too: an invalid SUBMIT "never waits" (R120). -/

namespace Sys2Proof.Machine

/-- The outbound queue of `ch` lets a SUBMIT of these flags go on: a check refuses it before the hold, or there is room
(R120, D32). -/
def State.submitEnabled (s : State) (ch : Nat) (flags : FlagSet) : Bool :=
  match s.row ch with
  | none => true
  | some r => !flags.valid || txReady s.cfg r

/-- The inbound queue of `ch` lets a RECEIVE go on (R121). -/
def State.receiveEnabled (s : State) (ch : Nat) : Bool :=
  match s.row ch with
  | none => true
  | some r => rxReady r

/-- Whether a held operation can go on: its hold condition is true (R124). -/
def State.heldEnabled (s : State) : HeldOp → Bool
  | .submit ch _ flags => s.submitEnabled ch flags
  | .receive ch => s.receiveEnabled ch

/-- The `requires` of ENGINE_TAKE (R160). -/
def State.takeEnabled (s : State) (ch : Nat) : Bool :=
  match s.row ch with
  | none => false
  | some r => !r.txq.isEmpty && mayOweMore s.cfg r.owed

/-- The `requires` of ENGINE_GIVE (R161). -/
def State.giveEnabled (s : State) (ch : Nat) : Bool :=
  match s.row ch with
  | none => false
  | some r => decide (0 < r.owed) && rxRoom s.cfg r

/-- The word is the oldest one of the queue. -/
def State.headIs (s : State) (k : QueueKind) (ch : Nat) (w : Word) : Bool := s.headWord k ch == some w

/-- Whether the operation has a step in this state, whoever performs it. -/
def State.enabled (s : State) (i : Instr) : Bool :=
  match i with
  | .encode _ _ => true
  | .decode _ => true
  | .createChannel p v => s.hostAccepts (.createChannel p v)
  | .describeChannels => s.hostAccepts .describeChannels
  | .submit ch d f => s.hostAccepts (.submit ch d f) && s.submitEnabled ch f
  | .receive ch => s.hostAccepts (.receive ch) && s.receiveEnabled ch
  | .bindOutboundHandler ch h => s.hostAccepts (.bindOutboundHandler ch h)
  | .bindInboundHandler ch h => s.hostAccepts (.bindInboundHandler ch h)
  | .setOutboundInterrupt ch v => s.hostAccepts (.setOutboundInterrupt ch v)
  | .setInboundInterrupt ch v => s.hostAccepts (.setInboundInterrupt ch v)
  | .engineTake ch => s.takeEnabled ch
  | .engineGive ch _ => s.giveEnabled ch
  | .irqEnter b c => (s.handler ⟨b, c⟩).isSome && s.canEnter ⟨b, c⟩
  | .irqReturn b c => s.canReturn ⟨b, c⟩
  | .cmdTx ch d st sp n =>
    s.takeEnabled ch && s.headIs .outbound ch (commandWord s.cfg d st sp false n)
  | .cmdRx ch d st sp n =>
    s.takeEnabled ch && s.headIs .outbound ch (commandWord s.cfg d st sp true n)
  | .rsp ch d n g => s.hostAccepts (.rsp ch d n g) && s.headIs .inbound ch (responseWord s.cfg d n g)

end Sys2Proof.Machine
end

