-- ==== Sys2Proof/WellFormed.lean ====
section
/-! DEFINITION. Well-formed instructions: the operand constraints the spec puts on an instruction, whatever the state. The meanings stay total: an ill-formed operand is refused, or has no step, by the meaning itself. -/

namespace Sys2Proof

/-- A channel id can only be one of 0 .. MAX_CHANNELS-1 (R7, R11). -/
def wellFormedChannel (c : Config) (ch : Nat) : Bool := ch < c.maxChannels

/-- The dispatcher's block operand is "block in IRQ_BLOCKS" (opcode table; R222). -/
def wellFormedIrqBlock (c : Config) (b : Nat) : Bool := b ∈ c.irqBlocks

/-- The constraints by constructor: channel ids (R11), valid flag sets (R64), blocks in IRQ_BLOCKS (R222), and that the
ignored part of a response word leaves the status bit's place empty (R66). -/
def wellFormed (c : Config) : Instr → Bool
  | .encode _ flags => flags.valid
  | .decode _ => true
  | .createChannel _ _ => true
  | .describeChannels => true
  | .submit ch _ flags => wellFormedChannel c ch && flags.valid
  | .receive ch => wellFormedChannel c ch
  | .bindOutboundHandler ch _ => wellFormedChannel c ch
  | .bindInboundHandler ch _ => wellFormedChannel c ch
  | .setOutboundInterrupt ch _ => wellFormedChannel c ch
  | .setInboundInterrupt ch _ => wellFormedChannel c ch
  | .engineTake ch => wellFormedChannel c ch
  | .engineGive ch _ => wellFormedChannel c ch
  | .irqEnter b _ => wellFormedIrqBlock c b
  | .irqReturn b _ => wellFormedIrqBlock c b
  | .cmdTx ch _ _ _ _ => wellFormedChannel c ch
  | .cmdRx ch _ _ _ _ => wellFormedChannel c ch
  | .rsp ch _ _ ignored => wellFormedChannel c ch && !ignored.getLsbD c.rspNackBit

end Sys2Proof
end

