-- ==== Sys2Proof/Safety.lean ====
section
/-! DEFINITION. What a good state is: the invariant of the machine, a quiescent channel, a final state and a stuck one, in the terms the claims use. -/

namespace Sys2Proof.Machine

/-- What the spec's invariants say of the row of channel `ch`: its placement (R13), the bounds of its queues (R45) and
of what is owed (R99 (d), R169), that its outbound words are words ENCODE can produce (R61, R69), and that a recorded
interrupt id is its block's and its handler is bound (R140, R141, R150). -/
structure Channel.Ok (s : State) (ch : Nat) (r : Channel) : Prop where
  block_eq : r.info.block = ch / s.cfg.lanesPerBlock
  lane_eq : r.info.lane = ch % s.cfg.lanesPerBlock
  tx_bound : r.txq.length ≤ s.cfg.txqDepth
  rx_bound : r.rxq.length ≤ s.cfg.rxqDepth
  owed_bound : ∀ m, s.cfg.engineMaxOwed = some m → r.owed ≤ m
  tx_words : ∀ w ∈ r.txq, isCommandWord s.cfg w = true
  out_id : ∀ id, r.info.outIrqId = some id →
    id = irqId r.info.block .outbound ∧ (s.handler id).isSome = true
  in_id : ∀ id, r.info.inIrqId = some id →
    id = irqId r.info.block .inbound ∧ (s.handler id).isSome = true

/-- The operations the contexts are held at. -/
def ContextStack.heldOps (k : ContextStack) : List HeldOp :=
  k.fgHeld.toList ++ k.irqs.flatMap fun f => f.held.toList

/-- A held operation passed its checks: it names a created channel, and a SUBMIT has a valid flag set (R120, R121: the
checks come before the hold). -/
def HeldOp.Ok (s : State) : HeldOp → Prop
  | .submit ch _ flags => ch < s.nChannels ∧ flags.valid = true
  | .receive ch => ch < s.nChannels

/-- The invariant of the machine: the parameters are admissible (R7), the table is within capacity (R11), every row is
good, the slots are those of IRQ_BLOCKS (R17), `in_service[b][c]` iff `irq(b,c)` is in `ctx_stack` (R230) with no context
twice (R222), and the held operations are good. -/
structure State.Inv (s : State) : Prop where
  cfg_valid : s.cfg.Valid
  capacity : s.nChannels ≤ s.cfg.maxChannels
  rows : ∀ ch r, s.row ch = some r → Channel.Ok s ch r
  slots : s.irqBlocks.map (fun b => b.block) = s.cfg.irqBlocks
  service : ∀ id, s.inService id = true ↔ id ∈ s.contexts.irqs.map fun f => f.id
  stack_nodup : (s.contexts.irqs.map fun f => f.id).Nodup
  held : ∀ h ∈ s.contexts.heldOps, HeldOp.Ok s h

/-- A channel is quiescent in the strict form of R279. -/
abbrev Channel.Quiescent (r : Channel) : Prop :=
  r.txq = [] ∧ r.rxq = [] ∧ r.owed = 0 ∧ r.outEn = false ∧ r.inEn = false

/-- A run is final (R279): nothing is left to perform, the host is in the foreground and waits for nothing, no fatal
error, every channel quiescent. (That no step was refused is the run's having a state.) -/
abbrev State.Final (s : State) : Prop :=
  s.schedule = [] ∧ s.contexts = ⟨none, []⟩ ∧ s.fatal = none ∧ ∀ r ∈ s.channels, r.Quiescent

/-- The engine lane of `ch` has no step (R160, R161). -/
abbrev State.EngineStuck (s : State) (ch : Nat) : Prop := s.takeEnabled ch = false ∧ s.giveEnabled ch = false

/-- The host's context on top waits and nothing outside it can move: no engine lane and no handler entry (R272). -/
abbrev State.Stuck (s : State) : Prop :=
  s.contexts.topHeld.isSome = true ∧
  (s.contexts.topHeld.all fun h => !s.heldEnabled h) = true ∧
  (∀ ch < s.nChannels, s.EngineStuck ch) ∧
  (∀ b ∈ s.cfg.irqBlocks, s.enabled (.irqEnter b .outbound) = false ∧ s.enabled (.irqEnter b .inbound) = false)

/-! ### What the claims compare: frames -/

/-- The parameters, the slots, the fatal latch and the schedule are the same. -/
structure State.SameControl (s t : State) : Prop where
  cfg : t.cfg = s.cfg
  irqBlocks : t.irqBlocks = s.irqBlocks
  fatal : t.fatal = s.fatal
  schedule : t.schedule = s.schedule

/-- No channel is created and every row but that of `ch` is the same. -/
structure State.OnlyRow (s t : State) (ch : Nat) : Prop where
  count : t.nChannels = s.nChannels
  others : ∀ ch', ch' ≠ ch → t.row ch' = s.row ch'

/-- The channel an operation names (R24: "an operation touches only the row of the channel it names"). -/
def namedChannel : Instr → Option Nat
  | .submit ch _ _ => some ch
  | .receive ch => some ch
  | .bindOutboundHandler ch _ => some ch
  | .bindInboundHandler ch _ => some ch
  | .setOutboundInterrupt ch _ => some ch
  | .setInboundInterrupt ch _ => some ch
  | .engineTake ch => some ch
  | .engineGive ch _ => some ch
  | .cmdTx ch _ _ _ _ => some ch
  | .cmdRx ch _ _ _ _ => some ch
  | .rsp ch _ _ _ => some ch
  | .encode _ _ => none
  | .decode _ => none
  | .createChannel _ _ => none
  | .describeChannels => none
  | .irqEnter _ _ => none
  | .irqReturn _ _ => none

/-- The channel from whose `txq` an instruction takes a word: ENGINE_TAKE (R160), or the consumption of a command word
(log 9). -/
def takesCommand : Instr → Option Nat
  | .engineTake ch => some ch
  | .cmdTx ch _ _ _ _ => some ch
  | .cmdRx ch _ _ _ _ => some ch
  | .engineGive _ _ => none
  | .encode _ _ => none
  | .decode _ => none
  | .createChannel _ _ => none
  | .describeChannels => none
  | .submit _ _ _ => none
  | .receive _ => none
  | .bindOutboundHandler _ _ => none
  | .bindInboundHandler _ _ => none
  | .setOutboundInterrupt _ _ => none
  | .setInboundInterrupt _ _ => none
  | .irqEnter _ _ => none
  | .irqReturn _ _ => none
  | .rsp _ _ _ _ => none

/-- The bind operation of a class: R140 for OUT, R141 for IN. -/
def bindOp : IrqClass → Nat → HandlerRef → Instr
  | .outbound => .bindOutboundHandler
  | .inbound => .bindInboundHandler

/-- The enable operation of a class: R142 for OUT, R143 for IN. -/
def setOp : IrqClass → Nat → Bool → Instr
  | .outbound => .setOutboundInterrupt
  | .inbound => .setInboundInterrupt

/-! ### Runs: any sequence of operations, by whichever agents (R47, R50) -/

/-- The state after a sequence of operations, none of which is refused. -/
def runOps : List Instr → State → Option State
  | [], s => some s
  | i :: is, s =>
    match exec i s with
    | .next t => runOps is t
    | .fault _ => none
    | .refused _ => none

/-- What `f` observes of each operation of a run, in order. -/
def collect {α : Type} (f : Instr → State → List α) : List Instr → State → List α
  | [], _ => []
  | i :: is, s =>
    match exec i s with
    | .next t => f i s ++ collect f is t
    | .fault _ => []
    | .refused _ => []

/-- The word an operation returns. -/
def returnedWord (i : Instr) (s : State) : List Word :=
  match exec i s with
  | .next t =>
    match t.result with
    | .word w => [w]
    | _ => []
  | .fault _ => []
  | .refused _ => []

/-- The pair (data, ack) an operation returns. -/
def returnedPair (i : Instr) (s : State) : List (Byte × Bool) :=
  match exec i s with
  | .next t =>
    match t.result with
    | .decoded d a => [(d, a)]
    | _ => []
  | .fault _ => []
  | .refused _ => []

/-- The word a SUBMIT step puts into `txq[ch]` (R120): none if the operation is another one, or has no step. -/
def submittedTo (ch : Nat) (i : Instr) (s : State) : List Word :=
  match i with
  | .submit ch' d f =>
    if ch' = ch ∧ s.enabled (.submit ch' d f) = true then (encodeOperands s.cfg d f).toList else []
  | _ => []

/-- The word a step of Engine(ch) returns from `txq[ch]` (R160; a command word consumed, log 9). -/
def takenFrom (ch : Nat) (i : Instr) (s : State) : List Word :=
  match i with
  | .engineTake ch' => if ch' = ch ∧ s.enabled i = true then returnedWord i s else []
  | .cmdTx ch' _ _ _ _ => if ch' = ch ∧ s.enabled i = true then returnedWord i s else []
  | .cmdRx ch' _ _ _ _ => if ch' = ch ∧ s.enabled i = true then returnedWord i s else []
  | _ => []

/-- The word an ENGINE_GIVE step puts into `rxq[ch]` (R161). -/
def givenTo (ch : Nat) (i : Instr) (s : State) : List Word :=
  match i with
  | .engineGive ch' w => if ch' = ch ∧ s.enabled (.engineGive ch' w) = true then [w] else []
  | _ => []

/-- The pair a RECEIVE step returns from `rxq[ch]` (R121; a response word consumed, log 9). -/
def receivedFrom (ch : Nat) (i : Instr) (s : State) : List (Byte × Bool) :=
  match i with
  | .receive ch' => if ch' = ch ∧ s.enabled i = true then returnedPair i s else []
  | .rsp ch' _ _ _ => if ch' = ch ∧ s.enabled i = true then returnedPair i s else []
  | _ => []

/-- The operation is a SUBMIT of a read command to `ch`. -/
def submitsRead (ch : Nat) : Instr → Bool
  | .submit ch' _ f => ch' == ch && f.reply
  | _ => false

end Sys2Proof.Machine
end

