-- ==== Sys2Proof/Certificates/Slice0/Obligations.lean ====
section
/-! DEFINITION. The statements for the provers, from the numbered rules of spec/. Each quantifies over every state, hence over every value of the parameters of 00_scope.md R7, the OPEN ones included. -/

open Sys2Proof Sys2Proof.Machine

/-! ### The codec -/

/-- R67: ENCODE of a valid flag set answers, in every state, the word whose bits 31:24 are `data` and whose lower bits
are set exactly where a flag's position says so (ACK contributes none, R63); DECODE answers bits 31:24 and the
complement of the status bit. -/
def Obligations.CodecAssemblesAndExtractsFields : Prop :=
  (∀ (s : State) (d : Byte) (f : FlagSet), f.valid = true →
    ∃ w : Word, exec (.encode d f) s = .next (s.returning (.word w)) ∧
      ∀ i, i < 32 → w.getLsbD i =
        if 24 ≤ i then d.getLsbD (i - 24)
        else (f.start && decide (i = s.cfg.cmdStartBit.val)) || (f.stop && decide (i = s.cfg.cmdStopBit.val)) ||
          (f.reply && decide (i = s.cfg.cmdReplyBit.val)) || (f.nack && decide (i = s.cfg.cmdNackBit.val))) ∧
  (∀ (s : State) (w : Word), ∃ (d : Byte) (a : Bool),
    exec (.decode w) s = .next (s.returning (.decoded d a)) ∧
      (∀ i, i < 8 → d.getLsbD i = w.getLsbD (24 + i)) ∧ a = !w.getLsbD s.cfg.rspNackBit.val)

/-- The checks of ENCODE and SUBMIT, 40_codec.md R91, 41_transport.md R120, 60_exceptions.md R217, R218 (decisions D3, D17,
D32: the spec's own). ENCODE is refused as InvalidFlagSet, in every state, exactly for a flag set with ACK and NACK. A
SUBMIT the host can perform is refused as InvalidChannel on a channel never created, whatever its flags, and on a created
channel, full queue or not, as InvalidFlagSet exactly for ACK and NACK, and as InvalidChannel never. -/
def Obligations.AckWithNackIsRefused : Prop :=
  ∀ (s : State) (d : Byte) (f : FlagSet),
    (exec (.encode d f) s = .refused .invalidFlagSet ↔ f.ack = true ∧ f.nack = true) ∧
    ∀ ch, s.hostAccepts (.submit ch d f) = true →
      (s.nChannels ≤ ch → exec (.submit ch d f) s = .refused .invalidChannel) ∧
      ∀ r, s.row ch = some r →
        (exec (.submit ch d f) s = .refused .invalidFlagSet ↔ f.ack = true ∧ f.nack = true) ∧
        exec (.submit ch d f) s ≠ .refused .invalidChannel

/-- 40_codec.md R92 (b), (d), (f) ("derived" in the spec): the data of the word, when two inputs give one word, and that
ACK does not matter, for every admissible layout. -/
def Obligations.EncodeIsInjectiveOnFields : Prop :=
  ∀ (c : Config), c.Valid → ∀ (d d' : Byte) (f f' : FlagSet) (w w' : Word),
    encodeOperands c d f = some w → encodeOperands c d' f' = some w' →
      wordData w = d ∧
      (w = w' ↔ d = d' ∧ f.start = f'.start ∧ f.stop = f'.stop ∧ f.reply = f'.reply ∧ f.nack = f'.nack) ∧
      encodeOperands c d { f with ack := false } = some w

/-- R96: DECODE of the word ENCODE answers recovers the byte; and for every word the acknowledge is true exactly when the
response bit is cleared. -/
def Obligations.CodecRoundTrips : Prop :=
  (∀ (s : State) (d : Byte) (f : FlagSet), f.valid = true →
    ∃ (w : Word) (a : Bool), exec (.encode d f) s = .next (s.returning (.word w)) ∧
      exec (.decode w) (s.returning (.word w)) = .next (s.returning (.decoded d a))) ∧
  (∀ (s : State) (w : Word), ∃ (d : Byte) (a : Bool), exec (.decode w) s = .next (s.returning (.decoded d a)) ∧
    (a = true ↔ w.getLsbD s.cfg.rspNackBit.val = false))

/-- 40_codec.md R97 (decision D5: the spec's own): where RSP_NACK_BIT = CMD_NACK_BIT, the round trip recovers the
acknowledge policy. -/
def Obligations.RoundTripRecoversAckPolicy : Prop :=
  ∀ (c : Config), c.Valid → c.rspNackBit = c.cmdNackBit → ∀ (d : Byte) (f : FlagSet) (w : Word),
    encodeOperands c d f = some w → decodeResponseWord c w = (d, !f.nack)

/-- R94: the status bit is 1 when the byte was not acknowledged and 0 when it was; DECODE and RECEIVE read it so. -/
def Obligations.StatusBitIsNegativeLogic : Prop :=
  ∀ (s : State) (w : Word),
    (∃ d, exec (.decode w) s = .next (s.returning (.decoded d (!w.getLsbD s.cfg.rspNackBit.val)))) ∧
    ∀ ch r q, s.row ch = some r → r.rxq = w :: q → s.hostAccepts (.receive ch) = true →
      ∃ t d, exec (.receive ch) s = .next t ∧ t.result = .decoded d (!w.getLsbD s.cfg.rspNackBit.val)

/-! ### The word formats -/

/-- Words written out bit by bit from tables T1 and T2 (30_encoding.md R61, R66, default positions: D1, D2, D5). -/
def Obligations.SpecWordsDecode : Prop :=
  decodeWord Config.default .outbound 3 0b11010000100000000000000000000000#32 = .ok (.cmdTx 3 0xD0#8 true false false) ∧
  decodeWord Config.default .outbound 3 0b00111011000000000000000000000000#32 = .ok (.cmdTx 3 0x3B#8 false false false) ∧
  decodeWord Config.default .outbound 3 0b11111111011100000000000000000000#32 = .ok (.cmdRx 3 0xFF#8 false true true) ∧
  decodeWord Config.default .outbound 3 0b11111111011100000000000000000001#32 = .rejected .unusedBitsSet ∧
  decodeWord Config.default .inbound 3 0b01011010000111111111111111111111#32 =
    .ok (.rsp 3 0x5A#8 true 0b000011111111111111111111#24)

/-- Decode and encode agree on every well-formed word instruction, for every admissible layout: 30_encoding.md tables
T1 and T2. -/
def Obligations.DecodeOfEncodeIsTheInstruction : Prop :=
  ∀ (c : Config), c.Valid → ∀ (i : Instr), wellFormed c i = true → ∀ k ch, queueOf i = some (k, ch) →
    ∃ w, encode c i = [w] ∧ decodeWord c k ch w = .ok i

/-- The other direction: a word has one meaning in its queue, the one that encodes to it; and a command word is rejected
exactly when a bit outside the data and the four flags is set (30_encoding.md R61, R66, R69). -/
def Obligations.EncodeOfDecodeIsTheWord : Prop :=
  ∀ (c : Config), c.Valid → ∀ (k : QueueKind) (ch : Nat) (w : Word),
    (∀ i, decodeWord c k ch w = .ok i → encode c i = [w] ∧ queueOf i = some (k, ch)) ∧
    (decodeWord c k ch w = .rejected .unusedBitsSet ↔ k = .outbound ∧ ∃ n, n < 24 ∧ w.getLsbD n = true ∧
      n ≠ c.cmdStartBit.val ∧ n ≠ c.cmdStopBit.val ∧ n ≠ c.cmdReplyBit.val ∧ n ≠ c.cmdNackBit.val)

/-- R68: the address bytes. -/
def Obligations.AddressBytes : Prop :=
  ∀ a : BitVec 7, (addrW a).toNat = a.toNat * 2 ∧ (addrR a).toNat = a.toNat * 2 + 1

/-! ### Channels -/

/-- R110, R113, R210: a CREATE_CHANNEL the host can perform below capacity returns the next id and makes its row, with the placement
of R112, ready to send and with nothing to receive; no other row, no request and nothing else changes. At capacity
it is the fatal error and nothing else. -/
def Obligations.CreateChannelAllocates : Prop :=
  ∀ (s : State) (p : Nat) (v : SpeedClass), s.cfg.Valid → s.hostAccepts (.createChannel p v) = true →
    (s.nChannels ≠ s.cfg.maxChannels → ∃ t r, exec (.createChannel p v) s = .next t ∧
      t.result = .channelId s.nChannels ∧ t.nChannels = s.nChannels + 1 ∧ t.row s.nChannels = some r ∧
      r.info = ⟨p, v, s.nChannels / s.cfg.lanesPerBlock, s.nChannels % s.cfg.lanesPerBlock, none, none⟩ ∧
      r.txq = [] ∧ r.rxq = [] ∧ r.outEn = false ∧ r.inEn = false ∧ r.owed = 0 ∧
      txReady t.cfg r = true ∧ rxReady r = false ∧
      (∀ ch, ch < s.nChannels → t.row ch = s.row ch) ∧ (∀ id, t.irqReq id = s.irqReq id) ∧
      State.SameControl s t ∧ t.contexts = s.contexts) ∧
    (s.nChannels = s.cfg.maxChannels →
      exec (.createChannel p v) s = .next { s with fatal := some .capacityExceeded })

/-- R112: from reset, N calls of CREATE_CHANNEL up to capacity yield ids 0 .. N-1, the i-th on block i / LANES_PER_BLOCK,
lane i mod LANES_PER_BLOCK, with the pin and speed asked for; the next call below capacity returns id N; the call
beyond capacity fails fatally; and no operation, in any state, destroys a channel. -/
def Obligations.AllocationIsSequential : Prop :=
  (∀ (c : Config) (reqs : List (Nat × SpeedClass)), reqs.length ≤ c.maxChannels →
    ∃ t, runOps (reqs.map fun q => .createChannel q.1 q.2) (State.resetOf c) = some t ∧ t.fatal = none ∧
      t.nChannels = reqs.length ∧
      (∀ i p v, reqs[i]? = some (p, v) → ∃ r, t.row i = some r ∧
        r.info = ⟨p, v, i / c.lanesPerBlock, i % c.lanesPerBlock, none, none⟩) ∧
      (reqs.length < c.maxChannels → ∀ p v, ∃ u, exec (.createChannel p v) t = .next u ∧
        u.result = .channelId reqs.length) ∧
      (reqs.length = c.maxChannels → ∀ p v, ∃ u, exec (.createChannel p v) t = .next u ∧
        u = { t with fatal := some .capacityExceeded })) ∧
  (∀ (s t : State) (i : Instr), exec i s = .next t → s.nChannels ≤ t.nChannels)

/-- 41_transport.md DESCRIBE_CHANNELS (R114, decision D30): the table has one line per created channel, in id order, with
its record; nothing but the result changes. -/
def Obligations.DescribeChannelsReturnsTheTable : Prop :=
  ∀ (s : State), s.hostAccepts .describeChannels = true →
    ∃ rows, exec .describeChannels s = .next (s.returning (.table rows)) ∧ rows.length = s.nChannels ∧
      ∀ ch r, s.row ch = some r → rows[ch]? = some ⟨ch, r.info⟩

/-! ### The queue operations -/

/-- 41_transport.md SUBMIT (R120): on an existing channel with room, a valid SUBMIT the host can perform appends the word
ENCODE answers; the ready flag falls iff the queue is then full; the context waits no longer; the frame. -/
def Obligations.SubmitAppendsItsWord : Prop :=
  ∀ (s : State) (ch : Nat) (d : Byte) (f : FlagSet) (r : Channel), s.hostAccepts (.submit ch d f) = true →
    s.row ch = some r → f.valid = true → r.txq.length < s.cfg.txqDepth →
    ∃ t w, exec (.encode d f) s = .next (s.returning (.word w)) ∧ exec (.submit ch d f) s = .next t ∧
      t.row ch = some { r with txq := r.txq ++ [w] } ∧
      (txReady t.cfg { r with txq := r.txq ++ [w] } = false ↔ r.txq.length + 1 = s.cfg.txqDepth) ∧
      State.OnlyRow s t ch ∧ State.SameControl s t ∧
      t.contexts = s.contexts.setTopHeld none ∧ t.result = .nothing

/-- 41_transport.md R121, with R124 for the hold (decisions D17, D25, D32; that a context's wait is recorded, and ends, is
log 7): a RECEIVE the host can perform is refused on a channel that does not exist, holds on an empty queue having
performed nothing, and else removes the oldest word and returns its decoding; the ready flag falls iff the queue is
then empty. -/
def Obligations.ReceiveTakesTheOldestWord : Prop :=
  ∀ (s : State) (ch : Nat), s.hostAccepts (.receive ch) = true →
    (s.nChannels ≤ ch → exec (.receive ch) s = .refused .invalidChannel) ∧
    (∀ r, s.row ch = some r → r.rxq = [] → exec (.receive ch) s = .next (s.hold (.receive ch))) ∧
    (∀ r w q, s.row ch = some r → r.rxq = w :: q → ∃ t d a, exec (.receive ch) s = .next t ∧
      exec (.decode w) s = .next (s.returning (.decoded d a)) ∧ t.result = .decoded d a ∧
      t.row ch = some { r with rxq := q } ∧ (rxReady { r with rxq := q } = false ↔ q = []) ∧
      State.OnlyRow s t ch ∧ State.SameControl s t ∧ t.contexts = s.contexts.setTopHeld none)

/-- 41_transport.md Blocking (R124, decision D25): a SUBMIT to a full queue performs nothing: the block's state is the same, and
the context on top, and only it, waits at the operation. -/
def Obligations.SubmitHoldsWhileFull : Prop :=
  ∀ (s : State) (ch : Nat) (d : Byte) (f : FlagSet) (r : Channel), s.hostAccepts (.submit ch d f) = true →
    s.row ch = some r → f.valid = true → s.cfg.txqDepth ≤ r.txq.length →
    ∃ t, exec (.submit ch d f) s = .next t ∧ t.channels = s.channels ∧ State.SameControl s t ∧ t.result = s.result ∧
      t.contexts.topHeld = some (.submit ch d f) ∧ t.contexts.top = s.contexts.top ∧
      t.contexts.irqs.tail = s.contexts.irqs.tail ∧
      (s.contexts.top ≠ .foreground → t.contexts.fgHeld = s.contexts.fgHeld) ∧
      (∀ i, heldOpOf i ≠ some (.submit ch d f) → t.hostAccepts i = false)

/-- R122: SUBMIT on a full outbound queue and RECEIVE on an empty inbound queue are the only operations that can wait:
a host operation after which a context that waited for nothing waits is one of these, waiting for its own channel. -/
def Obligations.OnlySubmitAndReceiveWait : Prop :=
  ∀ (s t : State) (i : Instr), isHostOp i = true → s.contexts.topHeld = none → exec i s = .next t →
    t.contexts.topHeld ≠ none →
    (∃ ch d f r, i = .submit ch d f ∧ s.row ch = some r ∧ s.cfg.txqDepth ≤ r.txq.length ∧
      t.contexts.topHeld = some (.submit ch d f)) ∨
    (∃ ch r, i = .receive ch ∧ s.row ch = some r ∧ r.rxq = [] ∧ t.contexts.topHeld = some (.receive ch))

/-- 41_transport.md Blocking (R124): an ENGINE_TAKE on the same channel lifts a SUBMIT's hold: after it the held SUBMIT, performed
again by its context, completes, its word behind the words that were there. -/
def Obligations.TakeLiftsTheHoldOfSubmit : Prop :=
  ∀ (s : State) (ch : Nat) (d : Byte) (f : FlagSet) (r : Channel) (w : Word) (q : List Word),
    s.fatal = none → s.contexts.topHeld = some (.submit ch d f) → s.row ch = some r → f.valid = true →
    r.txq = w :: q → r.txq.length = s.cfg.txqDepth → mayOweMore s.cfg r.owed = true →
    ∃ t u w' r', exec (.submit ch d f) s = .next s ∧ exec (.engineTake ch) s = .next t ∧
      exec (.submit ch d f) t = .next u ∧ encodeOperands s.cfg d f = some w' ∧
      u.row ch = some r' ∧ r'.txq = q ++ [w'] ∧ u.contexts.topHeld = none

/-- 41_transport.md R126 (with 44_client_fsm_pattern.md R195): four SUBMITs on an empty outbound queue never wait, whatever the depth the
spec admits. -/
def Obligations.FourSubmitsNeverWait : Prop :=
  ∀ (s : State) (ch : Nat) (r : Channel) (d₁ d₂ d₃ d₄ : Byte) (f₁ f₂ f₃ f₄ : FlagSet), s.cfg.Valid → s.fatal = none →
    s.contexts.topHeld = none → s.row ch = some r → r.txq = [] →
    f₁.valid = true → f₂.valid = true → f₃.valid = true → f₄.valid = true →
    ∃ t r', runOps [.submit ch d₁ f₁, .submit ch d₂ f₂, .submit ch d₃ f₃, .submit ch d₄ f₄] s = some t ∧
      t.row ch = some r' ∧ r'.txq.length = 4 ∧ t.contexts.topHeld = none

/-! ### Binding and arming -/

/-- R140, R141, R211, R212, for either class: a BIND the host can perform is refused on a channel that does not exist, is
`Fatal(UnsupportedBlock)` on a block outside IRQ_BLOCKS, `Fatal(HandlerAlreadyBound)` where the slot is bound (whoever
bound it, with whatever handler), and else binds the slot of the channel's block and that class, records the
interrupt id on the named channel only, and changes nothing else: no enable, no request, no other slot. -/
def Obligations.BindRegistersTheOneHandler : Prop :=
  ∀ (s : State) (c : IrqClass) (ch : Nat) (h : HandlerRef), s.irqBlocks.map (fun b => b.block) = s.cfg.irqBlocks →
    s.hostAccepts (bindOp c ch h) = true →
    (s.nChannels ≤ ch → exec (bindOp c ch h) s = .refused .invalidChannel) ∧
    (∀ r, s.row ch = some r →
      (r.info.block ∉ s.cfg.irqBlocks →
        exec (bindOp c ch h) s = .next { s with fatal := some .unsupportedBlock }) ∧
      (∀ h', s.handler ⟨r.info.block, c⟩ = some h' → r.info.block ∈ s.cfg.irqBlocks →
        exec (bindOp c ch h) s = .next { s with fatal := some .handlerAlreadyBound }) ∧
      (r.info.block ∈ s.cfg.irqBlocks → s.handler ⟨r.info.block, c⟩ = none →
        ∃ t, exec (bindOp c ch h) s = .next t ∧ t.handler ⟨r.info.block, c⟩ = some h ∧
          (∀ id, id ≠ ⟨r.info.block, c⟩ → t.handler id = s.handler id) ∧
          (∀ id, t.inService id = s.inService id) ∧ (∀ id, t.irqReq id = s.irqReq id) ∧
          t.row ch = some { r with info := r.info.withIrqId c (irqId r.info.block c) } ∧
          State.OnlyRow s t ch ∧ t.cfg = s.cfg ∧ t.fatal = s.fatal ∧ t.contexts = s.contexts ∧
          t.schedule = s.schedule ∧ t.result = .nothing))

/-- R142, R143, for either class: a SET the host can perform is refused on a channel that does not exist, and else writes
the one enable bit; the request is recomputed in the same step: armed and ready requests at once, disarmed with no
other channel requesting requests no more. -/
def Obligations.SetInterruptWritesTheEnable : Prop :=
  ∀ (s : State) (c : IrqClass) (ch : Nat) (v : Bool), s.hostAccepts (setOp c ch v) = true →
    (s.nChannels ≤ ch → exec (setOp c ch v) s = .refused .invalidChannel) ∧
    (∀ r, s.row ch = some r → ∃ t, exec (setOp c ch v) s = .next t ∧ t.row ch = some (r.withEnabled c v) ∧
      (r.withEnabled c v).enabled c = v ∧ (∀ c', c' ≠ c → (r.withEnabled c v).enabled c' = r.enabled c') ∧
      (v = true → ready s.cfg r c = true → t.irqReq ⟨r.info.block, c⟩ = true) ∧
      (v = false → (∀ ch' r', ch' ≠ ch → s.row ch' = some r' → r'.info.block = r.info.block →
        r'.requests s.cfg c = false) → t.irqReq ⟨r.info.block, c⟩ = false) ∧
      State.OnlyRow s t ch ∧ State.SameControl s t ∧ t.contexts = s.contexts ∧ t.result = .nothing)

/-- 60_exceptions.md R217 and R216 (decisions D17, D3): what is refused, and nothing but that. -/
def Obligations.RefusalsAreTheTwoNamedOnes : Prop :=
  ∀ (s : State) (i : Instr) (r : Refusal), exec i s = .refused r →
    (r = .invalidChannel ∧ isHostOp i = true ∧ s.hostAccepts i = true ∧
      ∃ ch, namedChannel i = some ch ∧ s.nChannels ≤ ch) ∨
    (r = .invalidFlagSet ∧ ∃ d f, f.ack = true ∧ f.nack = true ∧
      (i = .encode d f ∨ ∃ ch, i = .submit ch d f ∧ s.hostAccepts i = true))

/-! ### The engine -/

/-- R160: ENGINE_TAKE returns and removes the oldest word, owing one response more iff its reply bit is 1; with no word, no
channel, or ENGINE_MAX_OWED responses owed it has no step. -/
def Obligations.EngineTakeRemovesTheHead : Prop :=
  ∀ (s : State) (ch : Nat),
    (∀ r w q, s.row ch = some r → r.txq = w :: q → (∀ m, s.cfg.engineMaxOwed = some m → r.owed < m) →
      ∃ t, exec (.engineTake ch) s = .next t ∧ t.result = .word w ∧
        t.row ch = some { r with
          txq := q, owed := if w.getLsbD s.cfg.cmdReplyBit.val = true then r.owed + 1 else r.owed } ∧
        (r.txq.length = s.cfg.txqDepth → txReady s.cfg r = false ∧ txReady t.cfg { r with txq := q } = true) ∧
        State.OnlyRow s t ch ∧ State.SameControl s t ∧ t.contexts = s.contexts) ∧
    (s.nChannels ≤ ch → exec (.engineTake ch) s = .next s) ∧
    (∀ r, s.row ch = some r → r.txq = [] → exec (.engineTake ch) s = .next s) ∧
    (∀ r m, s.row ch = some r → s.cfg.engineMaxOwed = some m → m ≤ r.owed → exec (.engineTake ch) s = .next s)

/-- 43_engine_side.md R161, R163 (decisions D20, D21): ENGINE_GIVE appends the drawn word and owes one response less, whatever the
word; with nothing owed, no channel, or a full inbound queue it has no step. -/
def Obligations.EngineGiveAppendsTheDraw : Prop :=
  ∀ (s : State) (ch : Nat) (w : Word),
    (∀ r, s.row ch = some r → 0 < r.owed → r.rxq.length < s.cfg.rxqDepth →
      ∃ t, exec (.engineGive ch w) s = .next t ∧ t.result = .nothing ∧
        t.row ch = some { r with rxq := r.rxq ++ [w], owed := r.owed - 1 } ∧
        State.OnlyRow s t ch ∧ State.SameControl s t ∧ t.contexts = s.contexts) ∧
    (s.nChannels ≤ ch → exec (.engineGive ch w) s = .next s) ∧
    (∀ r, s.row ch = some r → r.owed = 0 ∨ s.cfg.rxqDepth ≤ r.rxq.length → exec (.engineGive ch w) s = .next s)

/-- CMD.TX and CMD.RX (30_encoding.md tables T1; log 9, the model's choice): a command word at the head of its queue, consumed by the
engine: removed and returned, one response owed for CMD.RX and none for CMD.TX; no step when it is not at the
head. -/
def Obligations.CommandWordsAreConsumed : Prop :=
  ∀ (s : State) (ch : Nat) (d : Byte) (st sp n : Bool),
    (∀ r q, s.cfg.Valid → s.row ch = some r → mayOweMore s.cfg r.owed = true →
      (r.txq = commandWord s.cfg d st sp false n :: q → ∃ t, exec (.cmdTx ch d st sp n) s = .next t ∧
        t.row ch = some { r with txq := q } ∧ t.result = .word (commandWord s.cfg d st sp false n) ∧
        State.OnlyRow s t ch ∧ State.SameControl s t ∧ t.contexts = s.contexts) ∧
      (r.txq = commandWord s.cfg d st sp true n :: q → ∃ t, exec (.cmdRx ch d st sp n) s = .next t ∧
        t.row ch = some { r with txq := q, owed := r.owed + 1 } ∧
        t.result = .word (commandWord s.cfg d st sp true n) ∧
        State.OnlyRow s t ch ∧ State.SameControl s t ∧ t.contexts = s.contexts)) ∧
    (s.headWord .outbound ch ≠ some (commandWord s.cfg d st sp false n) → exec (.cmdTx ch d st sp n) s = .next s) ∧
    (s.headWord .outbound ch ≠ some (commandWord s.cfg d st sp true n) → exec (.cmdRx ch d st sp n) s = .next s)

/-- RSP (30_encoding.md table T2; log 9, the model's choice): a response word at the head of its queue, received by the host. -/
def Obligations.ResponseWordsAreReceived : Prop :=
  ∀ (s : State) (ch : Nat) (d : Byte) (n : Bool) (g : BitVec 24) (r : Channel) (q : List Word),
    wellFormed s.cfg (.rsp ch d n g) = true → s.hostAccepts (.rsp ch d n g) = true → s.row ch = some r →
    r.rxq = responseWord s.cfg d n g :: q →
    ∃ t, exec (.rsp ch d n g) s = .next t ∧ t.result = .decoded d (!n) ∧ t.row ch = some { r with rxq := q } ∧
      State.OnlyRow s t ch ∧ State.SameControl s t ∧ t.contexts = s.contexts.setTopHeld none

/-- ENGINE_TAKE is the execution of the command word it takes, and RECEIVE that of the response word (30_encoding.md R60, 43_engine_side.md
R162; log 9, the model's choice): where the head of the queue decodes to `i`, the two answer the same. -/
def Obligations.QueueOperationsExecuteTheirWords : Prop :=
  ∀ (s : State) (ch : Nat) (w : Word) (i : Instr), s.cfg.Valid →
    (s.headWord .outbound ch = some w → decodeWord s.cfg .outbound ch w = .ok i →
      exec i s = exec (.engineTake ch) s) ∧
    (s.headWord .inbound ch = some w → decodeWord s.cfg .inbound ch w = .ok i →
      exec i s = exec (.receive ch) s)

/-- R166: a step of Engine(a) neither enables nor disables a step of Engine(b) for another channel. -/
def Obligations.EnginesAreIndependent : Prop :=
  ∀ (s t : State) (a : Nat) (i : Instr), engineChannel i = some a → exec i s = .next t →
    ∀ (b : Nat) (j : Instr), engineChannel j = some b → a ≠ b → t.enabled j = s.enabled j

/-- 43_engine_side.md R167 (derived in the spec): no engine step appends to `txq`, removes from `rxq`, or touches an enable, a record,
a handler slot, `in_service`, `n_channels`, `fatal` or a context. -/
def Obligations.EngineTouchesOnlyTheQueues : Prop :=
  ∀ (s t : State) (a : Nat) (i : Instr), engineChannel i = some a → exec i s = .next t →
    State.SameControl s t ∧ t.contexts = s.contexts ∧ State.OnlyRow s t a ∧
    ∀ r, s.row a = some r → ∃ r', t.row a = some r' ∧ r'.info = r.info ∧ r'.outEn = r.outEn ∧ r'.inEn = r.inEn ∧
      r'.txq <:+ r.txq ∧ r.rxq <+: r'.rxq

/-- Steps of two engines commute (20_memory.md R50: no order is defined between channels): either order gives the same
channels, and nothing else differs but which step returned last. -/
def Obligations.EngineStepsCommute : Prop :=
  ∀ (s t u : State) (a b : Nat) (i j : Instr), engineChannel i = some a → engineChannel j = some b → a ≠ b →
    exec i s = .next t → exec j t = .next u →
    ∃ t' u', exec j s = .next t' ∧ exec i t' = .next u' ∧ u'.channels = u.channels ∧
      State.SameControl u u' ∧ u'.contexts = u.contexts

/-! ### The dispatcher -/

/-- 60_exceptions.md R222 (decisions D11, D15, D35): under all of its conditions IRQ_ENTER sets the one `in_service` bit, pushes the
context, invokes the bound handler, and changes nothing else: no enable, no queue, no handler. -/
def Obligations.IrqEnterInvokesTheHandler : Prop :=
  ∀ (s : State) (b : Nat) (c : IrqClass) (h : HandlerRef), s.fatal = none → b ∈ s.cfg.irqBlocks →
    s.handler ⟨b, c⟩ = some h → s.irqReq ⟨b, c⟩ = true → s.inService ⟨b, c⟩ = false →
    mayPreempt s.cfg s.contexts.top ⟨b, c⟩ = true →
    ∃ t, exec (.irqEnter b c) s = .next t ∧ t.inService ⟨b, c⟩ = true ∧
      (∀ id, id ≠ ⟨b, c⟩ → t.inService id = s.inService id) ∧ (∀ id, t.handler id = s.handler id) ∧
      t.contexts.top = .irq ⟨b, c⟩ ∧ t.contexts.topHeld = none ∧ t.contexts.pop = s.contexts ∧
      t.channels = s.channels ∧ t.cfg = s.cfg ∧ t.fatal = s.fatal ∧ t.schedule = s.schedule ∧ t.result = .invoked h

/-- 60_exceptions.md R222, R226 (decisions D11, D12): IRQ_ENTER happens only under all of its conditions; in particular a handler
is not entered while it is in service, after a fatal error, with no handler bound, without a request, or over a
handler that `may_preempt` protects. -/
def Obligations.IrqEnterNeedsEveryCondition : Prop :=
  ∀ (s t : State) (b : Nat) (c : IrqClass), exec (.irqEnter b c) s = .next t → t ≠ s →
    s.fatal = none ∧ b ∈ s.cfg.irqBlocks ∧ (∃ h, s.handler ⟨b, c⟩ = some h) ∧ s.irqReq ⟨b, c⟩ = true ∧
    s.inService ⟨b, c⟩ = false ∧
    (s.contexts.top = .foreground ∨ ∃ o, s.contexts.top = .irq o ∧ (o, (⟨b, c⟩ : IrqId)) ∈ s.cfg.preempt)

/-- 60_exceptions.md R224 (decision D11): IRQ_RETURN of the handler on top, whose context waits for nothing, pops the context and clears
the one `in_service` bit; nothing else changes, and it has no step otherwise. -/
def Obligations.IrqReturnResumesTheContextBelow : Prop :=
  ∀ (s : State) (b : Nat) (c : IrqClass),
    (s.fatal = none → s.contexts.top = .irq ⟨b, c⟩ → s.contexts.topHeld = none →
      ∃ t, exec (.irqReturn b c) s = .next t ∧ t.inService ⟨b, c⟩ = false ∧
        (∀ id, id ≠ ⟨b, c⟩ → t.inService id = s.inService id) ∧ (∀ id, t.handler id = s.handler id) ∧
        t.contexts.irqs = s.contexts.irqs.tail ∧ t.contexts.fgHeld = s.contexts.fgHeld ∧
        t.channels = s.channels ∧ t.cfg = s.cfg ∧ t.fatal = s.fatal ∧ t.schedule = s.schedule ∧ t.result = .nothing) ∧
    (s.fatal ≠ none ∨ s.contexts.top ≠ .irq ⟨b, c⟩ ∨ s.contexts.topHeld ≠ none → exec (.irqReturn b c) s = .next s)

/-- 60_exceptions.md R221, R222 and 70_reset_and_hazards.md R270 (decision D10, level-sensitive): arming a channel whose condition holds, with a
handler bound and not in service, lets the dispatcher enter it in the very next step, from the foreground. -/
def Obligations.ArmingMayFireAtOnce : Prop :=
  ∀ (s : State) (c : IrqClass) (ch : Nat) (r : Channel) (h : HandlerRef), s.fatal = none →
    s.contexts = ⟨none, []⟩ → s.row ch = some r → ready s.cfg r c = true → r.info.block ∈ s.cfg.irqBlocks →
    s.handler ⟨r.info.block, c⟩ = some h → s.inService ⟨r.info.block, c⟩ = false →
    ∃ t u, exec (setOp c ch true) s = .next t ∧ exec (.irqEnter r.info.block c) t = .next u ∧
      u.contexts.top = .irq ⟨r.info.block, c⟩ ∧ u.result = .invoked h

/-- 42_interrupt_control.md R149 (derived in the spec): after the only requesting channel is disarmed no new entry of that handler happens. -/
def Obligations.DisarmingStopsNewEntries : Prop :=
  ∀ (s t : State) (c : IrqClass) (ch : Nat) (r : Channel), s.hostAccepts (setOp c ch false) = true →
    s.row ch = some r → (∀ ch' r', ch' ≠ ch → s.row ch' = some r' → r'.info.block = r.info.block →
      r'.requests s.cfg c = false) → exec (setOp c ch false) s = .next t →
    exec (.irqEnter r.info.block c) t = .next t ∧ ∀ id, t.inService id = s.inService id

/-! ### The machine -/

/-- 00_scope.md R8, 60_exceptions.md R218: an operation that is not enabled does not happen. Nothing changes, but for the record that a
host context waits at a SUBMIT or a RECEIVE. -/
def Obligations.NotEnabledMeansNoStep : Prop :=
  ∀ (s : State) (i : Instr), s.enabled i = false →
    exec i s = .next s ∨
    (s.hostAccepts i = true ∧ ∃ h, heldOpOf i = some h ∧ exec i s = .next (s.hold h))

/-- 60_exceptions.md R213 and 43_engine_side.md R168 (decisions D18, D35; log 12): once `fatal` is set it stays; no event of
the host does anything, its ENCODE and DECODE included (90_conflicts.md C13); and IRQ_ENTER and IRQ_RETURN do not happen,
nor does anything else the dispatcher attempts but the two codec functions, which stay defined in every state. -/
def Obligations.FatalErrorEndsTheHostProgram : Prop :=
  ∀ (s : State) (r : FatalReason), s.fatal = some r →
    (∀ t, step s = .next t → t.fatal = some r) ∧
    (∀ k i es, s.schedule = .perform (.host k) i :: es → step s = .next (s.withSchedule es)) ∧
    (∀ i es, s.schedule = .perform .dispatcher i :: es → isCodecOp i = false → step s = .next (s.withSchedule es)) ∧
    (∀ k ch es, s.schedule = .fetchResponse k ch :: es → step s = .next (s.withSchedule es))

/-- A step runs the event's instruction: the schedule moves on, and the rest is exec of the instruction the agent may perform. -/
def Obligations.StepRunsTheScheduledInstruction : Prop :=
  ∀ (s : State) (a : Agent) (i : Instr) (es : List Event), s.schedule = .perform a i :: es →
    (s.mayPerform a i = true → step s = exec i (s.withSchedule es)) ∧
    (s.mayPerform a i = false → step s = .next (s.withSchedule es))

/-- A step runs the decoded instruction: where the word at the head of the queue an event fetches from decodes to a well-formed
`i`, the step is exec of `i`, the schedule moved on; a response word only for the context on top that can receive. -/
def Obligations.StepRunsTheDecodedWord : Prop :=
  ∀ (s : State) (ch : Nat) (w : Word) (i : Instr) (es : List Event), wellFormed s.cfg i = true →
    (s.schedule = .fetchCommand ch :: es → s.headWord .outbound ch = some w →
      decodeWord s.cfg .outbound ch w = .ok i → step s = exec i (s.withSchedule es)) ∧
    (s.schedule = .fetchResponse s.contexts.top ch :: es → s.hostAccepts (.receive ch) = true →
      s.headWord .inbound ch = some w → decodeWord s.cfg .inbound ch w = .ok i →
      step s = exec i (s.withSchedule es))

/-- 00_scope.md R6 and 60_exceptions.md R225, R230 (decision D11): what an agent does not own has no step: a context that is not on top, an
engine of another channel, an engine or a dispatcher on a host operation. -/
def Obligations.EachAgentPerformsOnlyItsOwnSteps : Prop :=
  ∀ (s : State) (i : Instr) (es : List Event), isCodecOp i = false →
    (∀ k, s.schedule = .perform (.host k) i :: es → k ≠ s.contexts.top ∨ isHostOp i = false →
      step s = .next (s.withSchedule es)) ∧
    (∀ ch, s.schedule = .perform (.engine ch) i :: es → engineChannel i ≠ some ch →
      step s = .next (s.withSchedule es)) ∧
    (s.schedule = .perform .dispatcher i :: es → isDispatcherOp i = false → step s = .next (s.withSchedule es))

/-- 60_exceptions.md R231 (decision D28): every host operation behaves identically in every context: where it does not end waiting,
exchanging the context stack for another whose top waits for nothing changes nothing else in what it answers. -/
def Obligations.HostOperationsIgnoreTheContext : Prop :=
  ∀ (s t : State) (i : Instr) (k : ContextStack), isHostOp i = true → s.contexts.topHeld = none → k.topHeld = none →
    exec i s = .next t → t.contexts.topHeld = none →
    exec i { s with contexts := k } = .next { t with contexts := k }

/-- 10_state.md R25 and 70_reset_and_hazards.md R260 (decision D22): the reset state of every configuration. -/
def Obligations.ResetLeavesTheStatedValues : Prop :=
  State.reset = State.resetOf Config.default ∧
  ∀ (c : Config), (State.resetOf c).cfg = c ∧ (State.resetOf c).nChannels = 0 ∧ (∀ ch, (State.resetOf c).row ch = none) ∧
    (∀ id, (State.resetOf c).handler id = none ∧ (State.resetOf c).inService id = false ∧
      (State.resetOf c).irqReq id = false) ∧
    (∀ b k, b ∈ c.irqBlocks → ((State.resetOf c).slot ⟨b, k⟩).isSome = true) ∧
    (State.resetOf c).fatal = none ∧ (State.resetOf c).contexts = ⟨none, []⟩

/-- The invariant holds at reset, in every admissible configuration and in the default one. -/
def Obligations.ResetMeetsTheInvariant : Prop :=
  (∀ c : Config, c.Valid → (State.resetOf c).Inv) ∧ State.reset.Inv

/-- Every step keeps the invariant: 20_memory.md R45 (bounds of the queues), 10_state.md R11, R13, R17 (capacity, placement, slots), 60_exceptions.md R230
(`in_service` iff the context is on the stack), 43_engine_side.md R169, 30_encoding.md R61 (only words ENCODE can produce are in `txq`). -/
def Obligations.StepKeepsTheInvariant : Prop :=
  ∀ (s t : State), s.Inv → step s = .next t → t.Inv

/-- R13: in every state of the invariant each channel stands where its id says. Whatever step is taken, the recorded
attributes stay, an interrupt id that is set stays, and one that the step sets was none before and is that of a bind of
this channel. A channel the step creates stands where its id says and has neither interrupt id. -/
def Obligations.ChannelAttributesAreImmutable : Prop :=
  ∀ (s : State) (ch : Nat), s.Inv →
    (∀ r, s.row ch = some r → r.info.block = ch / s.cfg.lanesPerBlock ∧ r.info.lane = ch % s.cfg.lanesPerBlock) ∧
    ∀ t, step s = .next t →
      (∀ r, s.row ch = some r → ∃ r', t.row ch = some r' ∧ r'.info.sdaPin = r.info.sdaPin ∧
        r'.info.speed = r.info.speed ∧ r'.info.block = r.info.block ∧ r'.info.lane = r.info.lane ∧
        ∀ c, r'.info.irqIdOf c = r.info.irqIdOf c ∨
          (r.info.irqIdOf c = none ∧ r'.info.irqIdOf c = some (irqId r.info.block c) ∧
            ∃ k h es, s.schedule = .perform (.host k) (bindOp c ch h) :: es)) ∧
      (s.row ch = none → ∀ r', t.row ch = some r' →
        r'.info.block = ch / t.cfg.lanesPerBlock ∧ r'.info.lane = ch % t.cfg.lanesPerBlock ∧
        ∀ c, r'.info.irqIdOf c = none)

/-- 10_state.md R11 (decision D8) and 70_reset_and_hazards.md R261: a step creates at most one channel and destroys none, changes no parameter, and
never replaces a bound handler (10_state.md R17, 42_interrupt_control.md R145). -/
def Obligations.ChannelsAndHandlersOnlyGrow : Prop :=
  ∀ (s t : State), step s = .next t →
    t.cfg = s.cfg ∧ s.nChannels ≤ t.nChannels ∧ t.nChannels ≤ s.nChannels + 1 ∧
    ∀ id h, s.handler id = some h → t.handler id = some h

/-- R14 and R15: only SUBMIT appends to `txq[ch]`, at the tail, and only the engine's taking of a word removes one, from the
head; only ENGINE_GIVE appends to `rxq[ch]`, and only RECEIVE (of the word, or as the word, log 9) removes, from the
head; no other operation changes either queue. -/
def Obligations.QueuesChangeOnlyAtTheirEnds : Prop :=
  ∀ (s t : State) (i : Instr) (ch : Nat) (r : Channel), exec i s = .next t → s.row ch = some r →
    ∃ r', t.row ch = some r' ∧
      (r'.txq = r.txq ∨
        (∃ d f w, i = .submit ch d f ∧ encodeOperands s.cfg d f = some w ∧ r'.txq = r.txq ++ [w]) ∨
        (engineChannel i = some ch ∧ ∃ w, t.result = .word w ∧ r.txq = w :: r'.txq)) ∧
      (r'.rxq = r.rxq ∨
        (∃ w, i = .engineGive ch w ∧ r'.rxq = r.rxq ++ [w]) ∨
        ((i = .receive ch ∨ ∃ d n g, i = .rsp ch d n g) ∧ ∃ w, r.rxq = w :: r'.rxq))

/-- The write columns of the access table, 10_state.md R24 (derived in the spec; a word consumed as an instruction has the
line of ENGINE_TAKE or RECEIVE, log 9), and the host's context stack, 60_exceptions.md R230: an operation changes only the
row it names, and each kind of state only by the operations the table lets write it; the stack is entered and left only by
IRQ_ENTER and IRQ_RETURN, and otherwise at most the wait of the context on top changes (log 7), by an operation that can
wait. -/
def Obligations.OperationsTouchOnlyTheirTableRow : Prop :=
  ∀ (s t : State) (i : Instr), exec i s = .next t →
    t.cfg = s.cfg ∧ t.schedule = s.schedule ∧
    (∀ ch r, s.row ch = some r → namedChannel i ≠ some ch → t.row ch = some r) ∧
    (t.nChannels ≠ s.nChannels → ∃ p v, i = .createChannel p v) ∧
    (t.fatal ≠ s.fatal → (∃ p v, i = .createChannel p v) ∨ ∃ c ch h, i = bindOp c ch h) ∧
    (∀ id, t.handler id ≠ s.handler id → ∃ ch h, i = bindOp id.cls ch h) ∧
    (∀ id, t.inService id ≠ s.inService id → i = .irqEnter id.block id.cls ∨ i = .irqReturn id.block id.cls) ∧
    (∀ ch r r', s.row ch = some r → t.row ch = some r' →
      (r'.txq ≠ r.txq → (∃ d f, i = .submit ch d f) ∨ takesCommand i = some ch) ∧
      (r'.rxq ≠ r.rxq → (∃ w, i = .engineGive ch w) ∨ heldOpOf i = some (.receive ch)) ∧
      (∀ c, r'.enabled c ≠ r.enabled c → ∃ v, i = setOp c ch v) ∧
      (r'.owed ≠ r.owed → engineChannel i = some ch) ∧
      (r'.info ≠ r.info → ∃ c h, i = bindOp c ch h ∧ r'.info = r.info.withIrqId c (irqId r.info.block c))) ∧
    (t.contexts = s.contexts ∨
      (heldOpOf i ≠ none ∧ ∃ h, t.contexts = s.contexts.setTopHeld h ∧ (h = none ∨ h = heldOpOf i)) ∨
      (∃ b c, i = .irqEnter b c ∧ t.contexts = s.contexts.push ⟨b, c⟩) ∨
      (∃ b c, i = .irqReturn b c ∧ s.contexts.top = .irq ⟨b, c⟩ ∧ t.contexts = s.contexts.pop))

/-- R48: within one channel command words are delivered in submission order. Over any run of operations by any agents, what was in
`txq[ch]` followed by what was submitted is what the engine took followed by what is left. -/
def Obligations.CommandWordsAreDeliveredInOrder : Prop :=
  ∀ (ops : List Instr) (s t : State) (ch : Nat) (r : Channel), runOps ops s = some t → s.row ch = some r →
    ∃ r', t.row ch = some r' ∧
      r.txq ++ collect (submittedTo ch) ops s = collect (takenFrom ch) ops s ++ r'.txq

/-- 20_memory.md R49, with R20 and R164 for the count (decision D20, log 16; words consumed as instructions count as taken or
received, log 9): the k-th RECEIVE returns the decoding of the k-th response word, and a response word is given only for a
read command taken before it: over any run, what was in `rxq[ch]` and what was given decode to what was received and what is left, and
the responses given and still owed number those owed before and the read commands taken. -/
def Obligations.ResponsesAnswerReadCommandsInOrder : Prop :=
  ∀ (ops : List Instr) (s t : State) (ch : Nat) (r : Channel), runOps ops s = some t → s.row ch = some r →
    ∃ r', t.row ch = some r' ∧
      (r.rxq ++ collect (givenTo ch) ops s).map (decodeResponseWord s.cfg) =
        collect (receivedFrom ch) ops s ++ r'.rxq.map (decodeResponseWord s.cfg) ∧
      r.owed + ((collect (takenFrom ch) ops s).filter (wordReply s.cfg)).length =
        r'.owed + (collect (givenTo ch) ops s).length

/-- 70_reset_and_hazards.md R273 (derived in the spec): with nothing received, owed or read-commanded on a channel, no run without a SUBMIT of
a read command to it ever enables a RECEIVE on it. -/
def Obligations.ReceiveWithNothingOwedNeverReturns : Prop :=
  ∀ (ops : List Instr) (s t : State) (ch : Nat) (r : Channel), s.cfg.Valid → runOps ops s = some t →
    s.row ch = some r → r.rxq = [] → r.owed = 0 → (∀ w ∈ r.txq, wordReply s.cfg w = false) →
    (∀ i ∈ ops, submitsRead ch i = false) →
    t.enabled (.receive ch) = false ∧ ∀ w, t.enabled (.engineGive ch w) = false

/-- 30_encoding.md R69 (what the engine would do with such a word is outside the block; the refusal at the fetch is log 11):
a step that fetches a command word with a bit set outside its data and its four flags is refused by name; and from a state
of the invariant, hence after any run from reset, no step is refused so, whatever event is scheduled. -/
def Obligations.FetchRefusesOnlyUnreachableWords : Prop :=
  (∀ (s : State) (ch n : Nat) (w : Word) (es : List Event), s.schedule = .fetchCommand ch :: es →
    s.headWord .outbound ch = some w → n < 24 → w.getLsbD n = true →
    n ≠ s.cfg.cmdStartBit.val → n ≠ s.cfg.cmdStopBit.val → n ≠ s.cfg.cmdReplyBit.val → n ≠ s.cfg.cmdNackBit.val →
    step s = .refused .unreachableCommandWord) ∧
  (∀ (s : State), s.Inv → step s ≠ .refused .unreachableCommandWord)
end

