-- ==== Sys2Proof/Laws/State.lean ====
section
/-! SUPPORT. One lemma per field per update of the state: what each named update writes, and that it leaves every other field alone. -/

namespace Sys2Proof.Machine

@[simp] theorem State.setRow_cfg (s : State) (ch : Nat) (r : Channel) :
    (s.setRow ch r).cfg = s.cfg := rfl
@[simp] theorem State.setRow_channels (s : State) (ch : Nat) (r : Channel) :
    (s.setRow ch r).channels = s.channels.set ch r := rfl
@[simp] theorem State.setRow_irqBlocks (s : State) (ch : Nat) (r : Channel) :
    (s.setRow ch r).irqBlocks = s.irqBlocks := rfl
@[simp] theorem State.setRow_fatal (s : State) (ch : Nat) (r : Channel) :
    (s.setRow ch r).fatal = s.fatal := rfl
@[simp] theorem State.setRow_contexts (s : State) (ch : Nat) (r : Channel) :
    (s.setRow ch r).contexts = s.contexts := rfl
@[simp] theorem State.setRow_schedule (s : State) (ch : Nat) (r : Channel) :
    (s.setRow ch r).schedule = s.schedule := rfl
@[simp] theorem State.setRow_result (s : State) (ch : Nat) (r : Channel) :
    (s.setRow ch r).result = s.result := rfl

@[simp] theorem State.returning_cfg (s : State) (r : OpResult) :
    (s.returning r).cfg = s.cfg := rfl
@[simp] theorem State.returning_channels (s : State) (r : OpResult) :
    (s.returning r).channels = s.channels := rfl
@[simp] theorem State.returning_irqBlocks (s : State) (r : OpResult) :
    (s.returning r).irqBlocks = s.irqBlocks := rfl
@[simp] theorem State.returning_fatal (s : State) (r : OpResult) :
    (s.returning r).fatal = s.fatal := rfl
@[simp] theorem State.returning_contexts (s : State) (r : OpResult) :
    (s.returning r).contexts = s.contexts := rfl
@[simp] theorem State.returning_schedule (s : State) (r : OpResult) :
    (s.returning r).schedule = s.schedule := rfl
@[simp] theorem State.returning_result (s : State) (r : OpResult) :
    (s.returning r).result = r := rfl

@[simp] theorem State.withSchedule_cfg (s : State) (es : List Event) :
    (s.withSchedule es).cfg = s.cfg := rfl
@[simp] theorem State.withSchedule_channels (s : State) (es : List Event) :
    (s.withSchedule es).channels = s.channels := rfl
@[simp] theorem State.withSchedule_irqBlocks (s : State) (es : List Event) :
    (s.withSchedule es).irqBlocks = s.irqBlocks := rfl
@[simp] theorem State.withSchedule_fatal (s : State) (es : List Event) :
    (s.withSchedule es).fatal = s.fatal := rfl
@[simp] theorem State.withSchedule_contexts (s : State) (es : List Event) :
    (s.withSchedule es).contexts = s.contexts := rfl
@[simp] theorem State.withSchedule_schedule (s : State) (es : List Event) :
    (s.withSchedule es).schedule = es := rfl
@[simp] theorem State.withSchedule_result (s : State) (es : List Event) :
    (s.withSchedule es).result = s.result := rfl

@[simp] theorem State.modifySlot_cfg (s : State) (id : IrqId) (f : Slot → Slot) :
    (s.modifySlot id f).cfg = s.cfg := rfl
@[simp] theorem State.modifySlot_channels (s : State) (id : IrqId) (f : Slot → Slot) :
    (s.modifySlot id f).channels = s.channels := rfl
@[simp] theorem State.modifySlot_irqBlocks (s : State) (id : IrqId) (f : Slot → Slot) :
    (s.modifySlot id f).irqBlocks = s.irqBlocks.map fun b => if b.block = id.block then b.setSlot id.cls (f (b.slot id.cls)) else b := rfl
@[simp] theorem State.modifySlot_fatal (s : State) (id : IrqId) (f : Slot → Slot) :
    (s.modifySlot id f).fatal = s.fatal := rfl
@[simp] theorem State.modifySlot_contexts (s : State) (id : IrqId) (f : Slot → Slot) :
    (s.modifySlot id f).contexts = s.contexts := rfl
@[simp] theorem State.modifySlot_schedule (s : State) (id : IrqId) (f : Slot → Slot) :
    (s.modifySlot id f).schedule = s.schedule := rfl
@[simp] theorem State.modifySlot_result (s : State) (id : IrqId) (f : Slot → Slot) :
    (s.modifySlot id f).result = s.result := rfl

@[simp] theorem State.hold_cfg (s : State) (h : HeldOp) :
    (s.hold h).cfg = s.cfg := rfl
@[simp] theorem State.hold_channels (s : State) (h : HeldOp) :
    (s.hold h).channels = s.channels := rfl
@[simp] theorem State.hold_irqBlocks (s : State) (h : HeldOp) :
    (s.hold h).irqBlocks = s.irqBlocks := rfl
@[simp] theorem State.hold_fatal (s : State) (h : HeldOp) :
    (s.hold h).fatal = s.fatal := rfl
@[simp] theorem State.hold_contexts (s : State) (h : HeldOp) :
    (s.hold h).contexts = s.contexts.setTopHeld (some h) := rfl
@[simp] theorem State.hold_schedule (s : State) (h : HeldOp) :
    (s.hold h).schedule = s.schedule := rfl
@[simp] theorem State.hold_result (s : State) (h : HeldOp) :
    (s.hold h).result = s.result := rfl

@[simp] theorem State.release_cfg (s : State) :
    (s.release).cfg = s.cfg := rfl
@[simp] theorem State.release_channels (s : State) :
    (s.release).channels = s.channels := rfl
@[simp] theorem State.release_irqBlocks (s : State) :
    (s.release).irqBlocks = s.irqBlocks := rfl
@[simp] theorem State.release_fatal (s : State) :
    (s.release).fatal = s.fatal := rfl
@[simp] theorem State.release_contexts (s : State) :
    (s.release).contexts = s.contexts.setTopHeld none := rfl
@[simp] theorem State.release_schedule (s : State) :
    (s.release).schedule = s.schedule := rfl
@[simp] theorem State.release_result (s : State) :
    (s.release).result = s.result := rfl

@[simp] theorem State.raiseFatal_cfg (s : State) (r : FatalReason) :
    (s.raiseFatal r).cfg = s.cfg := rfl
@[simp] theorem State.raiseFatal_channels (s : State) (r : FatalReason) :
    (s.raiseFatal r).channels = s.channels := rfl
@[simp] theorem State.raiseFatal_irqBlocks (s : State) (r : FatalReason) :
    (s.raiseFatal r).irqBlocks = s.irqBlocks := rfl
@[simp] theorem State.raiseFatal_fatal (s : State) (r : FatalReason) :
    (s.raiseFatal r).fatal = some (s.fatal.getD r) := by
  unfold State.raiseFatal; cases s.fatal <;> rfl
@[simp] theorem State.raiseFatal_contexts (s : State) (r : FatalReason) :
    (s.raiseFatal r).contexts = s.contexts := rfl
@[simp] theorem State.raiseFatal_schedule (s : State) (r : FatalReason) :
    (s.raiseFatal r).schedule = s.schedule := rfl
@[simp] theorem State.raiseFatal_result (s : State) (r : FatalReason) :
    (s.raiseFatal r).result = s.result := rfl

@[simp] theorem State.enterHandler_cfg (s : State) (id : IrqId) (h : HandlerRef) :
    (s.enterHandler id h).cfg = s.cfg := rfl
@[simp] theorem State.enterHandler_channels (s : State) (id : IrqId) (h : HandlerRef) :
    (s.enterHandler id h).channels = s.channels := rfl
@[simp] theorem State.enterHandler_irqBlocks (s : State) (id : IrqId) (h : HandlerRef) :
    (s.enterHandler id h).irqBlocks = (s.setInService id true).irqBlocks := rfl
@[simp] theorem State.enterHandler_fatal (s : State) (id : IrqId) (h : HandlerRef) :
    (s.enterHandler id h).fatal = s.fatal := rfl
@[simp] theorem State.enterHandler_contexts (s : State) (id : IrqId) (h : HandlerRef) :
    (s.enterHandler id h).contexts = s.contexts.push id := rfl
@[simp] theorem State.enterHandler_schedule (s : State) (id : IrqId) (h : HandlerRef) :
    (s.enterHandler id h).schedule = s.schedule := rfl
@[simp] theorem State.enterHandler_result (s : State) (id : IrqId) (h : HandlerRef) :
    (s.enterHandler id h).result = .invoked h := rfl

@[simp] theorem State.returnHandler_cfg (s : State) (id : IrqId) :
    (s.returnHandler id).cfg = s.cfg := rfl
@[simp] theorem State.returnHandler_channels (s : State) (id : IrqId) :
    (s.returnHandler id).channels = s.channels := rfl
@[simp] theorem State.returnHandler_irqBlocks (s : State) (id : IrqId) :
    (s.returnHandler id).irqBlocks = (s.setInService id false).irqBlocks := rfl
@[simp] theorem State.returnHandler_fatal (s : State) (id : IrqId) :
    (s.returnHandler id).fatal = s.fatal := rfl
@[simp] theorem State.returnHandler_contexts (s : State) (id : IrqId) :
    (s.returnHandler id).contexts = s.contexts.pop := rfl
@[simp] theorem State.returnHandler_schedule (s : State) (id : IrqId) :
    (s.returnHandler id).schedule = s.schedule := rfl
@[simp] theorem State.returnHandler_result (s : State) (id : IrqId) :
    (s.returnHandler id).result = .nothing := rfl

@[simp] theorem State.takeWord_cfg (s : State) (ch : Nat) (r : Channel) (w : Word) (q : List Word) :
    (s.takeWord ch r w q).cfg = s.cfg := rfl
@[simp] theorem State.takeWord_channels (s : State) (ch : Nat) (r : Channel) (w : Word) (q : List Word) :
    (s.takeWord ch r w q).channels = s.channels.set ch { r with txq := q, owed := if wordReply s.cfg w then r.owed + 1 else r.owed } := rfl
@[simp] theorem State.takeWord_irqBlocks (s : State) (ch : Nat) (r : Channel) (w : Word) (q : List Word) :
    (s.takeWord ch r w q).irqBlocks = s.irqBlocks := rfl
@[simp] theorem State.takeWord_fatal (s : State) (ch : Nat) (r : Channel) (w : Word) (q : List Word) :
    (s.takeWord ch r w q).fatal = s.fatal := rfl
@[simp] theorem State.takeWord_contexts (s : State) (ch : Nat) (r : Channel) (w : Word) (q : List Word) :
    (s.takeWord ch r w q).contexts = s.contexts := rfl
@[simp] theorem State.takeWord_schedule (s : State) (ch : Nat) (r : Channel) (w : Word) (q : List Word) :
    (s.takeWord ch r w q).schedule = s.schedule := rfl
@[simp] theorem State.takeWord_result (s : State) (ch : Nat) (r : Channel) (w : Word) (q : List Word) :
    (s.takeWord ch r w q).result = .word w := rfl

@[simp] theorem State.receiveWord_cfg (s : State) (ch : Nat) (r : Channel) (w : Word) (q : List Word) :
    (s.receiveWord ch r w q).cfg = s.cfg := rfl
@[simp] theorem State.receiveWord_channels (s : State) (ch : Nat) (r : Channel) (w : Word) (q : List Word) :
    (s.receiveWord ch r w q).channels = s.channels.set ch { r with rxq := q } := rfl
@[simp] theorem State.receiveWord_irqBlocks (s : State) (ch : Nat) (r : Channel) (w : Word) (q : List Word) :
    (s.receiveWord ch r w q).irqBlocks = s.irqBlocks := rfl
@[simp] theorem State.receiveWord_fatal (s : State) (ch : Nat) (r : Channel) (w : Word) (q : List Word) :
    (s.receiveWord ch r w q).fatal = s.fatal := rfl
@[simp] theorem State.receiveWord_contexts (s : State) (ch : Nat) (r : Channel) (w : Word) (q : List Word) :
    (s.receiveWord ch r w q).contexts = s.contexts.setTopHeld none := rfl
@[simp] theorem State.receiveWord_schedule (s : State) (ch : Nat) (r : Channel) (w : Word) (q : List Word) :
    (s.receiveWord ch r w q).schedule = s.schedule := rfl
@[simp] theorem State.receiveWord_result (s : State) (ch : Nat) (r : Channel) (w : Word) (q : List Word) :
    (s.receiveWord ch r w q).result = .decoded (decodeResponseWord s.cfg w).1 (decodeResponseWord s.cfg w).2 := rfl

@[simp] theorem State.bindSlot_cfg (s : State) (id : IrqId) (h : HandlerRef) : (s.bindSlot id h).cfg = s.cfg := rfl
@[simp] theorem State.bindSlot_channels (s : State) (id : IrqId) (h : HandlerRef) : (s.bindSlot id h).channels = s.channels := rfl
@[simp] theorem State.bindSlot_fatal (s : State) (id : IrqId) (h : HandlerRef) : (s.bindSlot id h).fatal = s.fatal := rfl
@[simp] theorem State.bindSlot_contexts (s : State) (id : IrqId) (h : HandlerRef) : (s.bindSlot id h).contexts = s.contexts := rfl
@[simp] theorem State.bindSlot_schedule (s : State) (id : IrqId) (h : HandlerRef) : (s.bindSlot id h).schedule = s.schedule := rfl
@[simp] theorem State.bindSlot_result (s : State) (id : IrqId) (h : HandlerRef) : (s.bindSlot id h).result = s.result := rfl

@[simp] theorem State.setInService_cfg (s : State) (id : IrqId) (v : Bool) : (s.setInService id v).cfg = s.cfg := rfl
@[simp] theorem State.setInService_channels (s : State) (id : IrqId) (v : Bool) : (s.setInService id v).channels = s.channels := rfl
@[simp] theorem State.setInService_fatal (s : State) (id : IrqId) (v : Bool) : (s.setInService id v).fatal = s.fatal := rfl
@[simp] theorem State.setInService_contexts (s : State) (id : IrqId) (v : Bool) : (s.setInService id v).contexts = s.contexts := rfl
@[simp] theorem State.setInService_schedule (s : State) (id : IrqId) (v : Bool) : (s.setInService id v).schedule = s.schedule := rfl
@[simp] theorem State.setInService_result (s : State) (id : IrqId) (v : Bool) : (s.setInService id v).result = s.result := rfl

end Sys2Proof.Machine
end

