-- ==== Sys2Proof/Laws/Ops.lean ====
section
/-! SUPPORT. One specification lemma for each shared operation: everything it can do, to be cited instead of unfolding it. -/

namespace Sys2Proof.Machine

/-! ### Queues -/

theorem qPop_eq_some {q : List Word} {w : Word} {rest : List Word} :
    qPop q = some (w, rest) ↔ q = w :: rest := by
  cases q <;> simp [qPop]

theorem qPop_eq_none {q : List Word} : qPop q = none ↔ q = [] := by
  cases q <;> simp [qPop]

theorem qPush_length (q : List Word) (w : Word) : (qPush q w).length = q.length + 1 := by
  simp [qPush]

/-! ### Rows -/

theorem State.row_eq_none {s : State} {ch : Nat} : s.row ch = none ↔ s.nChannels ≤ ch := by
  simp [State.row, State.nChannels]

theorem State.lt_of_row {s : State} {ch : Nat} {r : Channel} (h : s.row ch = some r) : ch < s.nChannels := by
  by_contra hc
  rw [State.row_eq_none.mpr (Nat.le_of_not_lt hc)] at h
  cases h

theorem State.exists_row {s : State} {ch : Nat} (h : ch < s.nChannels) : ∃ r, s.row ch = some r := by
  cases hr : s.row ch with
  | none => exact absurd (State.row_eq_none.mp hr) (Nat.not_le.mpr h)
  | some r => exact ⟨r, rfl⟩

theorem State.mem_channels_iff {s : State} {r : Channel} : r ∈ s.channels ↔ ∃ ch, s.row ch = some r := by
  simp [State.row, List.mem_iff_getElem?]

theorem State.row_congr {s t : State} (h : t.channels = s.channels) (ch : Nat) : t.row ch = s.row ch := by
  simp [State.row, h]

theorem State.row_setRow {s : State} {ch : Nat} {r : Channel} (ch' : Nat) :
    (s.setRow ch r).row ch' = if ch' = ch ∧ ch < s.nChannels then some r else s.row ch' := by
  by_cases h : ch = ch'
  · subst h
    by_cases hc : ch < s.channels.length
    · simp [State.row, State.setRow, State.nChannels, hc]
    · simp [State.row, State.setRow, State.nChannels, hc]
  · have h' : ¬ ch' = ch := fun e => h e.symm
    simp [State.row, State.setRow, h, h']

theorem State.nChannels_setRow (s : State) (ch : Nat) (r : Channel) :
    (s.setRow ch r).nChannels = s.nChannels := by
  simp [State.nChannels]

/-! ### Slots -/

theorem IrqBlock.slot_setSlot (b : IrqBlock) (c c' : IrqClass) (x : Slot) :
    (b.setSlot c x).slot c' = if c' = c then x else b.slot c' := by
  cases c <;> cases c' <;> rfl

theorem IrqBlock.block_setSlot (b : IrqBlock) (c : IrqClass) (x : Slot) : (b.setSlot c x).block = b.block := by
  cases c <;> rfl

theorem State.slot_modifySlot (s : State) (id id' : IrqId) (f : Slot → Slot) :
    (s.modifySlot id f).slot id' = if id' = id then (s.slot id').map f else s.slot id' := by
  obtain ⟨b, c⟩ := id
  obtain ⟨b', c'⟩ := id'
  simp only [State.slot, State.modifySlot]
  induction s.irqBlocks with
  | nil => simp
  | cons r rs ih =>
    simp only [List.map_cons, List.find?_cons]
    by_cases hr : r.block = b
    · by_cases hb : b' = b
      · subst hb
        by_cases hc : c' = c <;> simp [hr, hc, IrqBlock.block_setSlot, IrqBlock.slot_setSlot]
      · have h2 : ¬ b = b' := fun e => hb e.symm
        have h3 : ¬ r.block = b' := fun e => h2 (hr ▸ e)
        have h4 : (r.block == b') = false := by simpa using h3
        have h5 : (b == b') = false := by simpa using h2
        simp only [hr, if_true, IrqBlock.block_setSlot, h5]
        simpa [hb] using ih
    · by_cases hb : r.block = b'
      · have h2 : ¬ b' = b := fun e => hr (hb.trans e)
        simp [hb, h2]
      · have h4 : (r.block == b') = false := by simpa using hb
        simp only [hr, if_false, h4]
        exact ih

theorem State.blocks_modifySlot (s : State) (id : IrqId) (f : Slot → Slot) :
    (s.modifySlot id f).irqBlocks.map (fun b => b.block) = s.irqBlocks.map fun b => b.block := by
  simp only [State.modifySlot, List.map_map]
  refine List.map_congr_left fun r _ => ?_
  simp only [Function.comp]
  split <;> simp [IrqBlock.block_setSlot]

theorem State.slot_congr {s t : State} (h : t.irqBlocks = s.irqBlocks) (id : IrqId) : t.slot id = s.slot id := by
  simp [State.slot, h]

theorem State.handler_congr {s t : State} (h : t.irqBlocks = s.irqBlocks) (id : IrqId) :
    t.handler id = s.handler id := by
  simp [State.handler, State.slot, h]

theorem State.inService_congr {s t : State} (h : t.irqBlocks = s.irqBlocks) (id : IrqId) :
    t.inService id = s.inService id := by
  simp [State.inService, State.slot, h]

/-- A block of the table has its two slots. -/
theorem State.exists_slot {s : State} {id : IrqId} (h : id.block ∈ s.irqBlocks.map fun b => b.block) :
    ∃ x, s.slot id = some x := by
  obtain ⟨b, hb, e⟩ := List.mem_map.mp h
  have : (s.irqBlocks.find? fun r => r.block == id.block).isSome := by
    rw [List.find?_isSome]
    exact ⟨b, hb, by simp [e]⟩
  obtain ⟨r, hr⟩ := Option.isSome_iff_exists.mp this
  exact ⟨r.slot id.cls, by simp [State.slot, hr]⟩

theorem State.handler_bindSlot (s : State) (id id' : IrqId) (h : HandlerRef) :
    (s.bindSlot id h).handler id' =
      if id' = id then (s.slot id').map (fun _ => h) else s.handler id' := by
  simp only [State.handler, State.bindSlot, State.slot_modifySlot]
  split
  · cases s.slot id' <;> rfl
  · rfl

theorem State.inService_bindSlot (s : State) (id id' : IrqId) (h : HandlerRef) :
    (s.bindSlot id h).inService id' = s.inService id' := by
  simp only [State.inService, State.bindSlot, State.slot_modifySlot]
  by_cases e : id' = id
  · rw [if_pos e]
    cases s.slot id' <;> rfl
  · rw [if_neg e]

theorem State.handler_setInService (s : State) (id id' : IrqId) (v : Bool) :
    (s.setInService id v).handler id' = s.handler id' := by
  simp only [State.handler, State.setInService, State.slot_modifySlot]
  split
  · cases s.slot id' <;> rfl
  · rfl

theorem State.inService_setInService (s : State) (id id' : IrqId) (v : Bool) :
    (s.setInService id v).inService id' =
      if id' = id ∧ (s.slot id').isSome then v else s.inService id' := by
  simp only [State.inService, State.setInService, State.slot_modifySlot]
  by_cases h : id' = id
  · subst h
    cases s.slot id' <;> simp
  · simp [h]

/-! ### Contexts -/

theorem ContextStack.topHeld_setTopHeld (k : ContextStack) (h : Option HeldOp) :
    (k.setTopHeld h).topHeld = h := by
  obtain ⟨g, irqs⟩ := k
  cases irqs <;> rfl

theorem ContextStack.top_setTopHeld (k : ContextStack) (h : Option HeldOp) : (k.setTopHeld h).top = k.top := by
  obtain ⟨g, irqs⟩ := k
  cases irqs <;> rfl

theorem ContextStack.ids_setTopHeld (k : ContextStack) (h : Option HeldOp) :
    ((k.setTopHeld h).irqs.map fun f => f.id) = k.irqs.map fun f => f.id := by
  obtain ⟨g, irqs⟩ := k
  cases irqs <;> rfl

theorem ContextStack.setTopHeld_topHeld (k : ContextStack) : k.setTopHeld k.topHeld = k := by
  obtain ⟨g, irqs⟩ := k
  cases irqs <;> rfl

/-- Setting what the top context is held at adds nothing else to the held operations. -/
theorem ContextStack.mem_heldOps_setTopHeld {k : ContextStack} {h : Option HeldOp} {x : HeldOp}
    (hx : x ∈ (k.setTopHeld h).heldOps) : h = some x ∨ x ∈ k.heldOps := by
  obtain ⟨g, irqs⟩ := k
  cases irqs with
  | nil => exact .inl (by simpa [ContextStack.setTopHeld, ContextStack.heldOps] using hx)
  | cons f fs =>
    simp only [ContextStack.setTopHeld, ContextStack.heldOps, List.mem_append, Option.mem_toList,
      List.flatMap_cons, List.mem_flatMap] at hx ⊢
    tauto

theorem ContextStack.top_eq_irq {k : ContextStack} {id : IrqId} (h : k.top = .irq id) :
    ∃ f fs, k.irqs = f :: fs ∧ f.id = id := by
  obtain ⟨g, irqs⟩ := k
  cases irqs with
  | nil => cases h
  | cons f fs => exact ⟨f, fs, rfl, by simpa [ContextStack.top] using h⟩

/-! ### The host's turn -/

theorem State.hostAccepts_iff {s : State} {i : Instr} :
    s.hostAccepts i = true ↔
      s.fatal = none ∧ (s.contexts.topHeld = none ∨ ∃ h, s.contexts.topHeld = some h ∧ heldOpOf i = some h) := by
  unfold State.hostAccepts
  cases s.contexts.topHeld <;> simp

theorem State.hostAccepts_fatal {s : State} {i : Instr} (h : s.fatal ≠ none) : s.hostAccepts i = false := by
  cases hf : s.fatal with
  | none => exact absurd hf h
  | some r => simp [State.hostAccepts, hf]

/-- Everything a host operation on a channel can do. -/
theorem State.onChannel_next {s t : State} {i : Instr} {ch : Nat} {k : Channel → Answer}
    (h : s.onChannel i ch k = .next t) :
    (s.hostAccepts i = false ∧ t = s) ∨
    (s.hostAccepts i = true ∧ ∃ r, s.row ch = some r ∧ k r = .next t) := by
  unfold State.onChannel at h
  split at h
  · rename_i ha
    cases hr : s.row ch with
    | none => simp [hr] at h
    | some r => exact .inr ⟨ha, r, rfl, by simpa [hr] using h⟩
  · rename_i ha
    refine .inl ⟨by simpa using ha, ?_⟩
    simpa [State.noStep, eq_comm] using h

theorem State.onChannel_row {s : State} {i : Instr} {ch : Nat} {r : Channel} {k : Channel → Answer}
    (ha : s.hostAccepts i = true) (hr : s.row ch = some r) : s.onChannel i ch k = k r := by
  simp [State.onChannel, ha, hr]

/-! ### Parameters and flags -/

theorem mayOweMore_iff {c : Config} {n : Nat} :
    mayOweMore c n = true ↔ ∀ m, c.engineMaxOwed = some m → n < m := by
  unfold mayOweMore
  cases c.engineMaxOwed <;> simp

theorem txReady_iff {c : Config} {r : Channel} : txReady c r = true ↔ r.txq.length < c.txqDepth := by
  simp [txReady]

theorem rxRoom_iff {c : Config} {r : Channel} : rxRoom c r = true ↔ r.rxq.length < c.rxqDepth := by
  simp [rxRoom]

theorem rxReady_iff {r : Channel} : rxReady r = true ↔ r.rxq ≠ [] := by
  simp [rxReady, List.length_pos_iff]

/-- `irq_req[b][c]` as R22 words it. -/
theorem State.irqReq_iff {s : State} {id : IrqId} :
    s.irqReq id = true ↔
      ∃ ch r, s.row ch = some r ∧ r.info.block = id.block ∧ r.enabled id.cls = true ∧
        ready s.cfg r id.cls = true := by
  simp only [State.irqReq, List.any_eq_true, Channel.requests, Bool.and_eq_true, beq_iff_eq]
  constructor
  · rintro ⟨r, hr, hb, he, hk⟩
    obtain ⟨ch, hch⟩ := State.mem_channels_iff.mp hr
    exact ⟨ch, r, hch, hb, he, hk⟩
  · rintro ⟨ch, r, hch, hb, he, hk⟩
    exact ⟨r, State.mem_channels_iff.mpr ⟨ch, hch⟩, hb, he, hk⟩

/-! ### The codec -/

theorem encodeOperands_eq_some {c : Config} {d : Byte} {f : FlagSet} {w : Word} :
    encodeOperands c d f = some w ↔ f.valid = true ∧ w = commandWord c d f.start f.stop f.reply f.nack := by
  unfold encodeOperands
  cases f.valid
  · simp
  · simpa using eq_comm

theorem encodeOperands_eq_none {c : Config} {d : Byte} {f : FlagSet} :
    encodeOperands c d f = none ↔ f.valid = false := by
  unfold encodeOperands
  split <;> simp_all

/-- A word ENCODE assembles has no bit outside the fields. -/
theorem getLsbD_bitAt (b : Bool) (n i : Nat) :
    (bitAt b n).getLsbD i = (b && decide (i = n) && decide (i < 32)) := by
  unfold bitAt
  cases b
  · simp
  · by_cases h : i < n
    · have h2 : ¬ i = n := by omega
      simp [BitVec.getLsbD_shiftLeft, h, h2]
    · by_cases h3 : i = n
      · subst h3; by_cases h4 : i < 32 <;> simp [BitVec.getLsbD_shiftLeft, h4]
      · have h5 : ¬ i - n = 0 := by omega
        simp [BitVec.getLsbD_shiftLeft, h, h3, h5]

end Sys2Proof.Machine
end

