-- ==== Sys2Proof/Laws/Meanings.lean ====
section
/-! SUPPORT. What each meaning can do: if it answers a next state, then one of the listed cases holds. Later proofs cite these and never unfold a meaning. -/

namespace Sys2Proof.Machine

theorem execEncode_next {d : Byte} {f : FlagSet} {s t : State} (h : execEncode d f s = .next t) :
    f.valid = true ∧ t = s.returning (.word (commandWord s.cfg d f.start f.stop f.reply f.nack)) := by
  unfold execEncode at h
  cases he : encodeOperands s.cfg d f with
  | none => simp [he] at h
  | some w =>
    obtain ⟨hv, rfl⟩ := encodeOperands_eq_some.mp he
    exact ⟨hv, by simpa [he] using h.symm⟩

theorem execDecode_next {w : Word} {s t : State} (h : execDecode w s = .next t) :
    t = s.returning (.decoded (decodeResponseWord s.cfg w).1 (decodeResponseWord s.cfg w).2) := by
  simpa [execDecode] using h.symm

theorem execCreateChannel_next {p : Nat} {v : SpeedClass} {s t : State} (h : execCreateChannel p v s = .next t) :
    (s.hostAccepts (.createChannel p v) = false ∧ t = s) ∨
    (s.hostAccepts (.createChannel p v) = true ∧ s.nChannels = s.cfg.maxChannels ∧
      t = s.raiseFatal .capacityExceeded) ∨
    (s.hostAccepts (.createChannel p v) = true ∧ s.nChannels ≠ s.cfg.maxChannels ∧
      t = { s with
        channels := s.channels ++ [newChannel s.cfg s.nChannels p v]
        result := .channelId s.nChannels }) := by
  unfold execCreateChannel State.noStep at h
  split at h
  · rename_i ha
    split at h
    · rename_i hn
      exact .inr (.inl ⟨ha, hn, by simpa using h.symm⟩)
    · rename_i hn
      exact .inr (.inr ⟨ha, hn, by simpa using h.symm⟩)
  · rename_i ha
    exact .inl ⟨by simpa using ha, by simpa using h.symm⟩

theorem execDescribeChannels_next {s t : State} (h : execDescribeChannels s = .next t) :
    t = s ∨ (s.hostAccepts .describeChannels = true ∧ t = s.returning (.table (describeFrom 0 s.channels))) := by
  unfold execDescribeChannels State.noStep at h
  split at h
  · rename_i ha
    exact .inr ⟨ha, by simpa using h.symm⟩
  · exact .inl (by simpa using h.symm)

theorem execSubmit_next {ch : Nat} {d : Byte} {f : FlagSet} {s t : State} (h : execSubmit ch d f s = .next t) :
    (s.hostAccepts (.submit ch d f) = false ∧ t = s) ∨
    (s.hostAccepts (.submit ch d f) = true ∧ ∃ r, s.row ch = some r ∧ f.valid = true ∧
      ((txReady s.cfg r = true ∧ t = ((s.setRow ch { r with
          txq := qPush r.txq (commandWord s.cfg d f.start f.stop f.reply f.nack) }).release).returning .nothing) ∨
        (txReady s.cfg r = false ∧ t = s.hold (.submit ch d f)))) := by
  rcases State.onChannel_next h with ⟨ha, ht⟩ | ⟨ha, r, hr, hk⟩
  · exact .inl ⟨ha, ht⟩
  · refine .inr ⟨ha, r, hr, ?_⟩
    cases he : encodeOperands s.cfg d f with
    | none => simp [he] at hk
    | some w =>
      obtain ⟨hv, rfl⟩ := encodeOperands_eq_some.mp he
      refine ⟨hv, ?_⟩
      cases hx : txReady s.cfg r
      · exact .inr ⟨rfl, by simpa [he, hx] using hk.symm⟩
      · exact .inl ⟨rfl, by simpa [he, hx] using hk.symm⟩

theorem execReceive_next {ch : Nat} {s t : State} (h : execReceive ch s = .next t) :
    (s.hostAccepts (.receive ch) = false ∧ t = s) ∨
    (s.hostAccepts (.receive ch) = true ∧ ∃ r, s.row ch = some r ∧
      ((r.rxq = [] ∧ t = s.hold (.receive ch)) ∨
        ∃ w q, r.rxq = w :: q ∧ t = s.receiveWord ch r w q)) := by
  rcases State.onChannel_next h with ⟨ha, ht⟩ | ⟨ha, r, hr, hk⟩
  · exact .inl ⟨ha, ht⟩
  · refine .inr ⟨ha, r, hr, ?_⟩
    cases hq : r.rxq with
    | nil => exact .inl ⟨rfl, by simpa [hq, qPop] using hk.symm⟩
    | cons w q => exact .inr ⟨w, q, rfl, by simpa [hq, qPop] using hk.symm⟩

/-- Everything the shared body of the binds can do. -/
theorem State.bindHandler_next {s t : State} {ch : Nat} {r : Channel} {c : IrqClass} {h : HandlerRef}
    (e : s.bindHandler ch r c h = .next t) :
    (r.info.block ∉ s.cfg.irqBlocks ∧ t = s.raiseFatal .unsupportedBlock) ∨
    (r.info.block ∈ s.cfg.irqBlocks ∧ (s.handler ⟨r.info.block, c⟩).isSome = true ∧
      t = s.raiseFatal .handlerAlreadyBound) ∨
    (r.info.block ∈ s.cfg.irqBlocks ∧ s.handler ⟨r.info.block, c⟩ = none ∧
      t = (((s.bindSlot ⟨r.info.block, c⟩ h).setRow ch
        { r with info := r.info.withIrqId c (irqId r.info.block c) }).returning .nothing)) := by
  unfold State.bindHandler at e
  split at e
  · rename_i hb
    split at e
    · rename_i hs
      exact .inr (.inl ⟨hb, hs, by simpa using e.symm⟩)
    · rename_i hs
      exact .inr (.inr ⟨hb, by simpa using hs, by simpa using e.symm⟩)
  · rename_i hb
    exact .inl ⟨hb, by simpa using e.symm⟩

theorem execBindOutboundHandler_next {ch : Nat} {x : HandlerRef} {s t : State}
    (h : execBindOutboundHandler ch x s = .next t) :
    (s.hostAccepts (.bindOutboundHandler ch x) = false ∧ t = s) ∨
    (s.hostAccepts (.bindOutboundHandler ch x) = true ∧
      ∃ r, s.row ch = some r ∧ s.bindHandler ch r .outbound x = .next t) :=
  State.onChannel_next h

theorem execBindInboundHandler_next {ch : Nat} {x : HandlerRef} {s t : State}
    (h : execBindInboundHandler ch x s = .next t) :
    (s.hostAccepts (.bindInboundHandler ch x) = false ∧ t = s) ∨
    (s.hostAccepts (.bindInboundHandler ch x) = true ∧
      ∃ r, s.row ch = some r ∧ s.bindHandler ch r .inbound x = .next t) :=
  State.onChannel_next h

theorem execSetOutboundInterrupt_next {ch : Nat} {v : Bool} {s t : State}
    (h : execSetOutboundInterrupt ch v s = .next t) :
    (s.hostAccepts (.setOutboundInterrupt ch v) = false ∧ t = s) ∨
    (s.hostAccepts (.setOutboundInterrupt ch v) = true ∧ ∃ r, s.row ch = some r ∧
      t = (s.setRow ch (r.withEnabled .outbound v)).returning .nothing) := by
  rcases State.onChannel_next h with ⟨ha, ht⟩ | ⟨ha, r, hr, hk⟩
  · exact .inl ⟨ha, ht⟩
  · exact .inr ⟨ha, r, hr, by simpa using hk.symm⟩

theorem execSetInboundInterrupt_next {ch : Nat} {v : Bool} {s t : State}
    (h : execSetInboundInterrupt ch v s = .next t) :
    (s.hostAccepts (.setInboundInterrupt ch v) = false ∧ t = s) ∨
    (s.hostAccepts (.setInboundInterrupt ch v) = true ∧ ∃ r, s.row ch = some r ∧
      t = (s.setRow ch (r.withEnabled .inbound v)).returning .nothing) := by
  rcases State.onChannel_next h with ⟨ha, ht⟩ | ⟨ha, r, hr, hk⟩
  · exact .inl ⟨ha, ht⟩
  · exact .inr ⟨ha, r, hr, by simpa using hk.symm⟩

theorem execEngineTake_next {ch : Nat} {s t : State} (h : execEngineTake ch s = .next t) :
    t = s ∨ ∃ r w q, s.row ch = some r ∧ r.txq = w :: q ∧ mayOweMore s.cfg r.owed = true ∧
      t = s.takeWord ch r w q := by
  unfold execEngineTake State.noStep at h
  cases hr : s.row ch with
  | none => exact .inl (by simpa [hr] using h.symm)
  | some r =>
    cases hq : r.txq with
    | nil => exact .inl (by simpa [hr, hq, qPop] using h.symm)
    | cons w q =>
      cases hm : mayOweMore s.cfg r.owed
      · exact .inl (by simpa [hr, hq, qPop, hm] using h.symm)
      · exact .inr ⟨r, w, q, rfl, hq, hm, by simpa [hr, hq, qPop, hm] using h.symm⟩

theorem execEngineGive_next {ch : Nat} {w : Word} {s t : State} (h : execEngineGive ch w s = .next t) :
    t = s ∨ ∃ r, s.row ch = some r ∧ 0 < r.owed ∧ rxRoom s.cfg r = true ∧
      t = (s.setRow ch { r with rxq := qPush r.rxq w, owed := r.owed - 1 }).returning .nothing := by
  unfold execEngineGive State.noStep at h
  cases hr : s.row ch with
  | none => exact .inl (by simpa [hr] using h.symm)
  | some r =>
    by_cases hm : 0 < r.owed ∧ rxRoom s.cfg r = true
    · exact .inr ⟨r, rfl, hm.1, hm.2, by simpa [hr, hm] using h.symm⟩
    · exact .inl (by simpa [hr, hm] using h.symm)

theorem execIrqEnter_next {b : Nat} {c : IrqClass} {s t : State} (h : execIrqEnter b c s = .next t) :
    t = s ∨ ∃ x, s.handler ⟨b, c⟩ = some x ∧ s.canEnter ⟨b, c⟩ = true ∧ t = s.enterHandler ⟨b, c⟩ x := by
  unfold execIrqEnter State.noStep at h
  cases hx : s.handler ⟨b, c⟩ with
  | none => exact .inl (by simpa [hx] using h.symm)
  | some x =>
    cases hc : s.canEnter ⟨b, c⟩
    · exact .inl (by simpa [hx, hc] using h.symm)
    · exact .inr ⟨x, rfl, rfl, by simpa [hx, hc] using h.symm⟩

theorem execIrqReturn_next {b : Nat} {c : IrqClass} {s t : State} (h : execIrqReturn b c s = .next t) :
    t = s ∨ (s.canReturn ⟨b, c⟩ = true ∧ t = s.returnHandler ⟨b, c⟩) := by
  unfold execIrqReturn State.noStep at h
  cases hc : s.canReturn ⟨b, c⟩
  · exact .inl (by simpa [hc] using h.symm)
  · exact .inr ⟨rfl, by simpa [hc] using h.symm⟩

theorem State.consumeCommand_next {ch : Nat} {w : Word} {s t : State} (h : s.consumeCommand ch w = .next t) :
    t = s ∨ ∃ r q, s.row ch = some r ∧ r.txq = w :: q ∧ mayOweMore s.cfg r.owed = true ∧
      t = s.takeWord ch r w q := by
  unfold State.consumeCommand State.noStep at h
  cases hr : s.row ch with
  | none => exact .inl (by simpa [hr] using h.symm)
  | some r =>
    cases hq : r.txq with
    | nil => exact .inl (by simpa [hr, hq, qPop] using h.symm)
    | cons w' q =>
      by_cases hm : w' = w ∧ mayOweMore s.cfg r.owed = true
      · exact .inr ⟨r, q, rfl, by rw [hq, hm.1], hm.2, by simpa [hr, hq, qPop, hm] using h.symm⟩
      · exact .inl (by simpa [hr, hq, qPop, hm] using h.symm)

theorem execRsp_next {ch : Nat} {d : Byte} {n : Bool} {g : BitVec 24} {s t : State}
    (h : execRsp ch d n g s = .next t) :
    t = s ∨ (s.hostAccepts (.rsp ch d n g) = true ∧ ∃ r q, s.row ch = some r ∧
      r.rxq = responseWord s.cfg d n g :: q ∧ t = s.receiveWord ch r (responseWord s.cfg d n g) q) := by
  unfold execRsp State.noStep at h
  cases ha : s.hostAccepts (.rsp ch d n g)
  · exact .inl (by simpa [ha] using h.symm)
  · cases hr : s.row ch with
    | none => exact .inl (by simpa [ha, hr] using h.symm)
    | some r =>
      cases hq : r.rxq with
      | nil => exact .inl (by simpa [ha, hr, hq, qPop] using h.symm)
      | cons w q =>
        by_cases hw : w = responseWord s.cfg d n g
        · exact .inr ⟨rfl, r, q, rfl, by rw [hq, hw], by simpa [ha, hr, hq, qPop, hw] using h.symm⟩
        · exact .inl (by simpa [ha, hr, hq, qPop, hw] using h.symm)

/-- What a step can do: nothing, an event taken with no step, or the selected instruction executed. -/
theorem step_next {s t : State} (h : step s = .next t) :
    (s.schedule = [] ∧ t = s) ∨
    (∃ e es, s.schedule = e :: es ∧ (s.withSchedule es).select e = .noStep ∧ t = s.withSchedule es) ∨
    (∃ e es i, s.schedule = e :: es ∧ (s.withSchedule es).select e = .run i ∧
      exec i (s.withSchedule es) = .next t) := by
  unfold step at h
  cases hs : s.schedule with
  | nil => exact .inl ⟨rfl, by simpa [hs] using h.symm⟩
  | cons e es =>
    cases hx : (s.withSchedule es).select e with
    | run i => exact .inr (.inr ⟨e, es, i, rfl, hx, by simpa [hs, hx] using h⟩)
    | noStep => exact .inr (.inl ⟨e, es, rfl, hx, by simpa [hs, hx] using h.symm⟩)
    | refuse r => simp [hs, hx] at h

end Sys2Proof.Machine
end

