-- ==== Sys2Proof/Laws/PerInstr.lean ====
section
/-! SUPPORT. Statements made per instruction, about the instruction as syntax. -/

namespace Sys2Proof.Laws.Encoded

open Sys2Proof

/-- An instruction that travels in a queue is one word there, whatever the layout, and an operation selected by name is
no word (30_encoding.md R60, R70, R71, D23). -/
def Statement (i : Instr) : Prop := ∀ c : Config, (encode c i).length = if (queueOf i).isSome then 1 else 0

theorem encode (d : Byte) (f : FlagSet) : Statement (.encode d f) := fun _ => rfl

theorem decode (w : Word) : Statement (.decode w) := fun _ => rfl

theorem createChannel (p : Nat) (v : SpeedClass) : Statement (.createChannel p v) := fun _ => rfl

theorem describeChannels : Statement .describeChannels := fun _ => rfl

theorem submit (ch : Nat) (d : Byte) (f : FlagSet) : Statement (.submit ch d f) := fun _ => rfl

theorem receive (ch : Nat) : Statement (.receive ch) := fun _ => rfl

theorem bindOutboundHandler (ch : Nat) (h : HandlerRef) : Statement (.bindOutboundHandler ch h) := fun _ => rfl

theorem bindInboundHandler (ch : Nat) (h : HandlerRef) : Statement (.bindInboundHandler ch h) := fun _ => rfl

theorem setOutboundInterrupt (ch : Nat) (v : Bool) : Statement (.setOutboundInterrupt ch v) := fun _ => rfl

theorem setInboundInterrupt (ch : Nat) (v : Bool) : Statement (.setInboundInterrupt ch v) := fun _ => rfl

theorem engineTake (ch : Nat) : Statement (.engineTake ch) := fun _ => rfl

theorem engineGive (ch : Nat) (w : Word) : Statement (.engineGive ch w) := fun _ => rfl

theorem irqEnter (b : Nat) (k : IrqClass) : Statement (.irqEnter b k) := fun _ => rfl

theorem irqReturn (b : Nat) (k : IrqClass) : Statement (.irqReturn b k) := fun _ => rfl

theorem cmdTx (ch : Nat) (d : Byte) (st sp n : Bool) : Statement (.cmdTx ch d st sp n) := fun _ => rfl

theorem cmdRx (ch : Nat) (d : Byte) (st sp n : Bool) : Statement (.cmdRx ch d st sp n) := fun _ => rfl

theorem rsp (ch : Nat) (d : Byte) (n : Bool) (g : BitVec 24) : Statement (.rsp ch d n g) := fun _ => rfl

end Sys2Proof.Laws.Encoded
end

