-- ==== Sys2Proof/Laws/Safety.lean ====
section
/-! SUPPORT. Small lemmas of the definitions of Safety.lean: the invariant does not see the schedule, which channel a bind or a set names, and which channel a word is taken from. -/

namespace Sys2Proof.Machine

theorem Channel.Ok_withSchedule {s : State} {ch : Nat} {r : Channel} (h : Channel.Ok s ch r) (es : List Event) :
    Channel.Ok (s.withSchedule es) ch r :=
  ⟨h.block_eq, h.lane_eq, h.tx_bound, h.rx_bound, h.owed_bound, h.tx_words, h.out_id, h.in_id⟩

theorem HeldOp.Ok_withSchedule {s : State} {o : HeldOp} (h : HeldOp.Ok s o) (es : List Event) :
    HeldOp.Ok (s.withSchedule es) o := by
  cases o <;> exact h

/-- The schedule is no part of the invariant. -/
theorem State.Inv_withSchedule {s : State} (h : s.Inv) (es : List Event) : (s.withSchedule es).Inv where
  cfg_valid := h.cfg_valid
  capacity := h.capacity
  rows := fun ch r hr => Channel.Ok_withSchedule (h.rows ch r hr) es
  slots := h.slots
  service := h.service
  stack_nodup := h.stack_nodup
  held := fun o ho => HeldOp.Ok_withSchedule (h.held o ho) es

theorem namedChannel_bindOp (c : IrqClass) (ch : Nat) (x : HandlerRef) : namedChannel (bindOp c ch x) = some ch := by
  cases c <;> rfl

theorem namedChannel_setOp (c : IrqClass) (ch : Nat) (v : Bool) : namedChannel (setOp c ch v) = some ch := by
  cases c <;> rfl

/-- Taking a command word is a step of that channel's engine. -/
theorem engineChannel_of_takesCommand {i : Instr} {ch : Nat} (h : takesCommand i = some ch) :
    engineChannel i = some ch := by
  cases i <;> first | exact h | cases h

end Sys2Proof.Machine
end

