-- ==== Sys2Proof/Tests/Slice0.lean ====
section
/-! SUPPORT. The model's own tests: the well-formedness smoke, words written out from the spec's tables, vectors of 95_test_vectors.md (named in each comment), and a witness for the hypotheses of each statement. -/

namespace Sys2Proof.Tests

open Sys2Proof Sys2Proof.Machine

/-! ### Small states -/

def nextOf : Answer → Option State
  | .next s => some s
  | .fault _ => none
  | .refused _ => none

def refusalOf : Answer → Option Refusal
  | .next _ => none
  | .fault _ => none
  | .refused r => some r

def field {α : Type} (f : State → α) (a : Answer) : Option α := (nextOf a).map f

/-- N_BLOCKS = 2, TXQ_DEPTH = 4, RXQ_DEPTH = 2, ENGINE_MAX_OWED = 2; the IN handler may be entered over the OUT one. -/
def cfg2 : Config :=
  { Config.default with
    nBlocks := 2, rxqDepth := 2, engineMaxOwed := some 2
    preempt := [(irqId 0 .outbound, irqId 0 .inbound)] }

/-- The set-aside layout of 30_encoding.md R62 (V-C2), with the response bit at 0 (V-C3). -/
def cfgLow : Config :=
  { Config.default with cmdStartBit := 3, cmdStopBit := 2, cmdReplyBit := 1, cmdNackBit := 0, rspNackBit := 0 }

def chan (id : Nat) (tx rx : List Word) (owed : Nat) : Channel :=
  { newChannel cfg2 id 6 .standard with txq := tx, rxq := rx, owed := owed }

def withChannels (c : Config) (rs : List Channel) : State := { State.resetOf c with channels := rs }

/-- One channel with these queues and owed count. -/
def one (tx rx : List Word) (owed : Nat) : State := withChannels cfg2 [chan 0 tx rx owed]

/-- Five channels, the last one on block 1, which delivers no interrupts; channel 0 as given. -/
def five (r : Channel) : State :=
  withChannels cfg2 [r, chan 1 [] [] 0, chan 2 [] [] 0, chan 3 [] [] 0, chan 4 [] [] 0]

def full4 : List Word := [0xD0800000#32, 0x3B000000#32, 0xD1800000#32, 0xFF200000#32]

def start : FlagSet := { FlagSet.empty with start := true }
def readAck : FlagSet := { FlagSet.empty with reply := true, ack := true }
def lastRead : FlagSet := { FlagSet.empty with reply := true, nack := true, stop := true }
def both : FlagSet := { FlagSet.empty with ack := true, nack := true }

def h1 : HandlerRef := ⟨1⟩
def h2 : HandlerRef := ⟨2⟩

/-- One channel with a response waiting, the IN handler bound and its condition armed: V-D1, first row. -/
def armed : State :=
  (withChannels cfg2 [{ chan 0 [] [0x5A100000#32] 0 with inEn := true }]).bindSlot (irqId 0 .inbound) h1

/-- `armed` with the OUT handler in service. -/
def nested : State :=
  { (armed.setInService (irqId 0 .outbound) true) with contexts := ⟨none, [⟨irqId 0 .outbound, none⟩]⟩ }

/-! ### Well-formedness: an ill-formed term for each check -/

theorem test_wf_channel : wellFormed cfg2 (.receive 7) = true ∧ wellFormed cfg2 (.receive 8) = false := by decide
theorem test_wf_flags : wellFormed cfg2 (.encode 0 readAck) = true ∧ wellFormed cfg2 (.encode 0 both) = false ∧
    wellFormed cfg2 (.submit 0 0 both) = false := by decide
theorem test_wf_block : wellFormed cfg2 (.irqEnter 0 .inbound) = true ∧ wellFormed cfg2 (.irqEnter 1 .inbound) = false ∧
    wellFormed cfg2 (.irqReturn 1 .outbound) = false := by decide
theorem test_wf_ignored : wellFormed cfg2 (.rsp 0 0 true 0xEFFFFF#24) = true ∧
    wellFormed cfg2 (.rsp 0 0 true 0x100000#24) = false := by decide
theorem test_config_valid : Config.default.Valid ∧ cfg2.Valid ∧ cfgLow.Valid := by decide
theorem test_config_shallow : ¬ { cfg2 with txqDepth := 3 }.Valid := by decide
theorem test_config_clash : ¬ { cfg2 with cmdStopBit := 23 }.Valid := by decide

/-! ### Words written out from tables T1 and T2 -/

/-- T1, `dddddddd S P R N 0…`: 0xD0, start. -/
theorem test_word_cmdTx : decodeWord Config.default .outbound 0 0b11010000100000000000000000000000#32 =
    .ok (.cmdTx 0 0xD0#8 true false false) := by decide
/-- T1: 0xFF, stop, reply, nack. -/
theorem test_word_cmdRx : decodeWord Config.default .outbound 0 0b11111111011100000000000000000000#32 =
    .ok (.cmdRx 0 0xFF#8 false true true) := by decide
/-- T2, `dddddddd xxx N x…`: 0x3C, not acknowledged, ignored bits 0x0ABCDE (V-C3: 0x3C1ABCDE). -/
theorem test_word_rsp : decodeWord Config.default .inbound 0 0b00111100000110101011110011011110#32 =
    .ok (.rsp 0 0x3C#8 true 0x0ABCDE#24) := by decide
/-- R69: bit 0 set is no command word. -/
theorem test_word_unreachable : decodeWord Config.default .outbound 0 0xD0800001#32 = .rejected .unusedBitsSet := by
  decide
theorem test_table_words : decodeTableWord 32 0x00000000 = some (.cmdTx 0 0 false false false) ∧
    decodeTableWord 32 0x00200000 = some (.cmdRx 0 0 false false false) ∧
    decodeTableWord 32 0x00000001 = some (.rsp 0 0 false 1#24) ∧ decodeTableWord 33 0 = none := by decide
theorem test_named_has_no_word : encode cfg2 (.receive 0) = [] ∧ queueOf (.receive 0) = none := by decide
/-- V-C3 in the set-aside layout. -/
theorem test_word_low_layout : decodeWord cfgLow .outbound 0 0xD0000008#32 = .ok (.cmdTx 0 0xD0#8 true false false) := by
  decide

/-! ### Vectors -/

/-- V-C1, V-C2. -/
theorem test_encode : field (·.result) (exec (.encode 0xFF#8 lastRead) State.reset) = some (.word 0xFF700000#32) ∧
    field (·.result) (exec (.encode 0xD0#8 start) State.reset) = some (.word 0xD0800000#32) := by decide
/-- V-C2: the set-aside layout; and the refused set. -/
theorem test_encode_low_and_refused :
    field (·.result) (exec (.encode 0xFF#8 lastRead) (State.resetOf cfgLow)) = some (.word 0xFF000007#32) ∧
    refusalOf (exec (.encode 0x12#8 both) State.reset) = some .invalidFlagSet := by decide
/-- V-C3. -/
theorem test_decode : field (·.result) (exec (.decode 0x5A1FFFFF#32) State.reset) = some (.decoded 0x5A#8 false) ∧
    field (·.result) (exec (.decode 0xFFEFFFFF#32) State.reset) = some (.decoded 0xFF#8 true) := by decide
theorem test_decode_low : field (·.result) (exec (.decode 0x10100000#32) (State.resetOf cfgLow)) =
    some (.decoded 0x10#8 true) := by decide
/-- V-T1: call 5 stands on block 1, lane 0. -/
theorem test_create : field (fun s => (s.nChannels, (s.row 5).map (fun r => (r.info.block, r.info.lane)), s.result))
    (exec (.createChannel 10 .fast) (five (chan 0 [] [] 0))) = some (6, some (1, 1), .channelId 5) := by decide
/-- V-X1: at capacity (4 channels, N_BLOCKS = 1). -/
theorem test_create_beyond : field (fun s => (s.nChannels, s.fatal))
    (exec (.createChannel 2 .fast) (withChannels Config.default
      [chan 0 [] [] 0, chan 1 [] [] 0, chan 2 [] [] 0, chan 3 [] [] 0])) = some (4, some .capacityExceeded) := by decide
/-- S1. -/
theorem test_describe : field (·.result) (exec .describeChannels (withChannels cfg2 [chan 0 [] [] 0, chan 1 [] [] 0])) =
    some (.table [⟨0, ⟨6, .standard, 0, 0, none, none⟩⟩, ⟨1, ⟨6, .standard, 0, 1, none, none⟩⟩]) := by decide
/-- V-T2: the fourth word. -/
theorem test_submit : field (fun s => (s.row 0).map (·.txq))
    (exec (.submit 0 0xFF#8 readAck) (one [0xD0800000#32, 0x3B000000#32, 0xD1800000#32] [] 0)) = some (some full4) := by
  decide
/-- V-T2: a full queue holds; the checks precede the hold. -/
theorem test_submit_holds : field (fun s => ((s.row 0).map (·.txq), s.contexts.fgHeld))
    (exec (.submit 0 0x00#8 FlagSet.empty) (one full4 [] 0)) =
      some (some full4, some (.submit 0 0x00#8 FlagSet.empty)) ∧
    refusalOf (exec (.submit 0 0x00#8 both) (one full4 [] 0)) = some .invalidFlagSet ∧
    refusalOf (exec (.submit 1 0x00#8 both) (one full4 [] 0)) = some .invalidChannel := by decide
/-- V-T2. -/
theorem test_receive : field (fun s => ((s.row 0).map (·.rxq), s.result))
    (exec (.receive 0) (one [] [0x00000000#32, 0x10000000#32] 0)) =
      some (some [0x10000000#32], .decoded 0x00#8 true) := by decide
theorem test_receive_holds : field (·.contexts.fgHeld) (exec (.receive 0) (one [] [] 1)) = some (some (.receive 0)) ∧
    refusalOf (exec (.receive 7) (one [] [] 1)) = some .invalidChannel := by decide
/-- V-I1: bound through channel 1; the id is recorded there only. -/
theorem test_bind_outbound : field (fun s => (s.handler (irqId 0 .outbound), (s.row 1).map (·.info.outIrqId),
      (s.row 0).map (·.info.outIrqId))) (exec (.bindOutboundHandler 1 h1) (five (chan 0 [] [] 0))) =
    some (some h1, some (some (irqId 0 .outbound)), some none) := by decide
/-- V-X1: block 1 is not in IRQ_BLOCKS. -/
theorem test_bind_unsupported : field (·.fatal) (exec (.bindOutboundHandler 4 h1) (five (chan 0 [] [] 0))) =
    some (some .unsupportedBlock) := by decide
/-- V-I1: a second bind through another handler. -/
theorem test_bind_inbound_twice : field (fun s => (s.fatal, s.handler (irqId 0 .inbound)))
    (exec (.bindInboundHandler 0 h2) armed) = some (some .handlerAlreadyBound, some h1) := by decide
theorem test_bind_inbound : field (fun s => (s.handler (irqId 0 .inbound), s.handler (irqId 0 .outbound)))
    (exec (.bindInboundHandler 0 h1) (one [] [] 0)) = some (some h1, none) := by decide
/-- V-I1: an empty queue has room, so arming requests at once. -/
theorem test_set_outbound : field (fun s => (s.irqReq (irqId 0 .outbound), s.irqReq (irqId 0 .inbound)))
    (exec (.setOutboundInterrupt 0 true) (one [] [] 0)) = some (true, false) := by decide
/-- V-I1: a full queue does not, and the request is the or over the block. -/
theorem test_set_outbound_full :
    field (·.irqReq (irqId 0 .outbound)) (exec (.setOutboundInterrupt 0 true) (five (chan 0 full4 [] 0))) = some false ∧
    field (·.irqReq (irqId 0 .outbound)) (exec (.setOutboundInterrupt 1 true) (five (chan 0 full4 [] 0))) = some true := by
  decide
/-- V-I1 (R148): stored on a block that delivers no interrupts. -/
theorem test_set_inbound : field (fun s => ((s.row 4).map (·.inEn), s.irqReq (irqId 1 .inbound)))
    (exec (.setInboundInterrupt 4 true) (five (chan 0 [] [] 0))) = some (some true, false) := by decide
theorem test_set_inbound_disarms : field (·.irqReq (irqId 0 .inbound)) (exec (.setInboundInterrupt 0 false) armed) =
    some false := by decide
/-- V-E1. -/
theorem test_take : field (fun s => (s.result, (s.row 0).map (fun r => (r.txq, r.owed))))
    (exec (.engineTake 0) (one [0xFF200000#32] [] 1)) = some (.word 0xFF200000#32, some ([], 2)) := by decide
theorem test_take_limit : field (fun s => (s.row 0).map (fun r => (r.txq, r.owed)))
    (exec (.engineTake 0) (one [0xD0800000#32] [] 2)) = some (some ([0xD0800000#32], 2)) := by decide
theorem test_give : field (fun s => (s.row 0).map (fun r => (r.rxq, r.owed)))
    (exec (.engineGive 0 0x10000000#32) (one [] [] 1)) = some (some ([0x10000000#32], 0)) := by decide
theorem test_give_nothing_owed : field (fun s => (s.row 0).map (·.rxq))
    (exec (.engineGive 0 0x10000000#32) (one [] [] 0)) = some (some []) := by decide
/-- V-D1, first row. -/
theorem test_enter : field (fun s => (s.inService (irqId 0 .inbound), s.contexts.top, s.result))
    (exec (.irqEnter 0 .inbound) armed) = some (true, .irq (irqId 0 .inbound), .invoked h1) := by decide
/-- V-D1, nesting rows: `may_preempt` true, then false. -/
theorem test_enter_nested : field (·.contexts.irqs.length) (exec (.irqEnter 0 .inbound) nested) = some 2 ∧
    field (·.contexts.irqs.length)
      (exec (.irqEnter 0 .inbound) { nested with cfg := { cfg2 with preempt := [] } }) = some 1 := by decide
theorem test_return : field (fun s => (s.inService (irqId 0 .outbound), s.contexts.top)) (exec (.irqReturn 0 .outbound) nested) =
    some (false, .foreground) := by decide
/-- R124: a handler held at an operation has not ended. -/
theorem test_return_held : field (·.contexts.irqs.length) (exec (.irqReturn 0 .outbound) (nested.hold (.receive 0))) =
    some 1 := by decide
theorem test_cmdTx : field (fun s => (s.row 0).map (fun r => (r.txq, r.owed)))
    (exec (.cmdTx 0 0xD0#8 true false false) (one [0xD0800000#32, 0xFF200000#32] [] 0)) =
      some (some ([0xFF200000#32], 0)) := by decide
theorem test_cmdRx : field (fun s => (s.row 0).map (fun r => (r.txq, r.owed)))
    (exec (.cmdRx 0 0xFF#8 false false false) (one [0xFF200000#32] [] 0)) = some (some ([], 1)) := by decide
theorem test_rsp : field (fun s => ((s.row 0).map (·.rxq), s.result))
    (exec (.rsp 0 0x5A#8 true 0#24) (one [] [0x5A100000#32] 0)) = some (some [], .decoded 0x5A#8 false) := by decide
/-- V-X1: the host program has ended; the engine goes on (R168). -/
theorem test_after_fatal : field (fun s => (s.row 0).map (·.txq))
      (exec (.submit 0 0#8 start) { one [] [] 0 with fatal := some .capacityExceeded }) = some (some []) ∧
    field (fun s => (s.row 0).map (·.txq))
      (exec (.engineTake 0) { one [0xD0800000#32] [] 0 with fatal := some .capacityExceeded }) = some (some []) := by decide
/-- S9. -/
theorem test_address : addrW 0x68#7 = 0xD0#8 ∧ addrR 0x3C#7 = 0x79#8 ∧ addrR 0x7F#7 = 0xFF#8 := by decide

/-! ### Steps -/

/-- The first step after reset runs a placed word of each format. -/
theorem test_first_step : field (·.result) (step (State.reset.withFetchWord 32 0xD0800000)) = some (.word 0xD0800000#32) ∧
    field (fun s => (s.row 0).map (·.owed)) (step (State.reset.withFetchWord 32 0xFF200000)) = some (some 1) ∧
    field (·.result) (step (State.reset.withFetchWord 32 0x5A1FFFFF)) = some (.decoded 0x5A#8 false) := by decide
theorem test_step_idle : field (·.schedule) (step State.reset) = some [] := by decide
theorem test_step_unreachable_word :
    refusalOf (step { one [0x00000001#32] [] 0 with schedule := [.fetchCommand 0] }) = some .unreachableCommandWord := by
  decide
/-- A context below the top performs nothing (R225). -/
theorem test_step_below_top : field (fun s => (s.row 0).map (·.rxq))
    (step { nested with schedule := [.perform (.host .foreground) (.receive 0)] }) = some (some [0x5A100000#32]) := by decide
/-- P6, after step 16: the host is stuck. -/
theorem test_stuck : State.Stuck
    { (withChannels Config.default [{ chan 0 full4 [0x00000000#32] 1 with outEn := true }]) with
      contexts := ⟨none, [⟨irqId 0 .outbound, some (.submit 0 0xFF#8 readAck)⟩]⟩ } := by decide
/-- P1, end state: final. -/
theorem test_final : (one [] [] 0).Final ∧ ¬ (one [] [0x00000000#32] 0).Final := by decide

/-! ### Witnesses: states and operands that meet the hypotheses of the statements -/

/-- The machine at work: a read command and a response queued, one owed, the IN handler bound through channel 0 and in
service, the foreground waiting at a RECEIVE of channel 1, an engine step scheduled. -/
def busy : State where
  cfg := cfg2
  channels := [{ chan 0 [0xFF200000#32] [0x5A100000#32] 1 with
      inEn := true, info := ⟨6, .standard, 0, 0, none, some (irqId 0 .inbound)⟩ }, chan 1 [] [] 0]
  irqBlocks := [⟨0, Slot.reset, ⟨some h1, true⟩⟩]
  fatal := none
  contexts := ⟨some (.receive 1), [⟨irqId 0 .inbound, none⟩]⟩
  schedule := [.perform (.engine 0) (.engineTake 0)]
  result := .nothing

theorem busy_row {ch : Nat} {r : Channel} (h : busy.row ch = some r) :
    (ch = 0 ∧ r = { chan 0 [0xFF200000#32] [0x5A100000#32] 1 with
      inEn := true, info := ⟨6, .standard, 0, 0, none, some (irqId 0 .inbound)⟩ }) ∨ (ch = 1 ∧ r = chan 1 [] [] 0) := by
  match ch, h with
  | 0, h => exact .inl ⟨rfl, (Option.some.inj h).symm⟩
  | 1, h => exact .inr ⟨rfl, (Option.some.inj h).symm⟩
  | n + 2, h => cases h

theorem busy_service (id : IrqId) :
    busy.inService id = true ↔ id ∈ busy.contexts.irqs.map fun f => f.id := by
  obtain ⟨b, c⟩ := id
  match b, c with
  | 0, .outbound => decide
  | 0, .inbound => decide
  | n + 1, c =>
    have h : busy.inService ⟨n + 1, c⟩ = false := rfl
    have k : busy.contexts.irqs.map (fun f => f.id) = [irqId 0 .inbound] := rfl
    rw [h, k]
    simp [irqId]

theorem readWord : isCommandWord cfg2 0xFF200000#32 = true := by decide

theorem witness_Inv : busy.Inv where
  cfg_valid := by decide
  capacity := by decide
  rows := by
    intro ch r h
    have two : ∀ m, busy.cfg.engineMaxOwed = some m → m = 2 := fun m e =>
      (Option.some.inj (show some 2 = some m from e)).symm
    rcases busy_row h with ⟨rfl, rfl⟩ | ⟨rfl, rfl⟩
    · refine ⟨by decide, by decide, by decide, by decide, ?_, ?_, ?_, ?_⟩
      · intro m e
        rw [two m e]
        decide
      · intro w hw
        rw [List.mem_singleton.mp (show w ∈ [0xFF200000#32] from hw)]
        exact readWord
      · intro id e
        exact nomatch (show (none : Option IrqId) = some id from e)
      · intro id e
        rw [← Option.some.inj (show some (irqId 0 .inbound) = some id from e)]
        decide
    · refine ⟨by decide, by decide, by decide, by decide, ?_, ?_, ?_, ?_⟩
      · intro m e
        rw [two m e]
        decide
      · intro w hw
        exact absurd (show w ∈ ([] : List Word) from hw) List.not_mem_nil
      · intro id e
        exact nomatch (show (none : Option IrqId) = some id from e)
      · intro id e
        exact nomatch (show (none : Option IrqId) = some id from e)
  slots := by decide
  service := busy_service
  stack_nodup := by decide
  held := by
    intro h hh
    have : h = .receive 1 := by simpa [ContextStack.heldOps, busy] using hh
    subst this
    show 1 < 2
    decide

theorem witness_StepKeepsTheInvariant : busy.Inv ∧ ∃ t, step busy = .next t ∧ t ≠ busy := ⟨witness_Inv, _, rfl, by decide⟩
theorem witness_ResetMeetsTheInvariant : cfg2.Valid ∧ cfgLow.Valid := by decide
theorem witness_ChannelAttributesAreImmutable :
    busy.Inv ∧ (busy.row 1).isSome ∧ ∃ t, step busy = .next t := ⟨witness_Inv, by decide, _, rfl⟩
/-- The next step creates channel 2, and the next step sets the OUT id of channel 1. -/
theorem witness_ChannelAttributes_written :
    (busy.withSchedule [.perform (.host (.irq (irqId 0 .inbound))) (.createChannel 6 .fast)]).Inv ∧ busy.row 2 = none ∧
    field (fun t => (t.row 2).map (·.info)) (step (busy.withSchedule
      [.perform (.host (.irq (irqId 0 .inbound))) (.createChannel 6 .fast)])) =
        some (some ⟨6, .fast, 0, 2, none, none⟩) ∧
    field (fun t => (t.row 1).map (·.info.outIrqId)) (step (busy.withSchedule
      [.perform (.host (.irq (irqId 0 .inbound))) (.bindOutboundHandler 1 h2)])) =
        some (some (some (irqId 0 .outbound))) :=
  ⟨State.Inv_withSchedule witness_Inv _, by decide, by decide, by decide⟩
theorem witness_ChannelsAndHandlersOnlyGrow : (∃ t, step busy = .next t) ∧ busy.handler (irqId 0 .inbound) = some h1 :=
  ⟨⟨_, rfl⟩, by decide⟩
theorem witness_CodecAssemblesAndExtractsFields : lastRead.valid = true := by decide
theorem witness_AckWithNackIsRefused : both.ack = true ∧ both.nack = true ∧
    (one full4 [] 0).hostAccepts (.submit 0 0#8 both) = true ∧ (one full4 [] 0).row 0 = some (chan 0 full4 [] 0) ∧
    (one full4 [] 0).hostAccepts (.submit 1 0#8 both) = true ∧ (one full4 [] 0).hostAccepts (.submit 1 0#8 start) = true ∧
    (one full4 [] 0).nChannels ≤ 1 := by decide
theorem witness_EncodeIsInjectiveOnFields : cfgLow.Valid ∧ encodeOperands cfgLow 0xD0#8 start = some 0xD0000008#32 ∧
    encodeOperands cfgLow 0xFF#8 lastRead = some 0xFF000007#32 := by decide
theorem witness_CodecRoundTrips : readAck.valid = true := by decide
theorem witness_RoundTripRecoversAckPolicy : cfg2.Valid ∧ cfg2.rspNackBit = cfg2.cmdNackBit ∧
    encodeOperands cfg2 0xFF#8 lastRead = some 0xFF700000#32 := by decide
theorem witness_StatusBitIsNegativeLogic : (one [] [0x5A100000#32] 0).row 0 = some (chan 0 [] [0x5A100000#32] 0) ∧
    (one [] [0x5A100000#32] 0).hostAccepts (.receive 0) = true := by decide
theorem witness_DecodeOfEncodeIsTheInstruction : cfgLow.Valid ∧ wellFormed cfgLow (.cmdTx 3 0xD0#8 true false true) = true ∧
    queueOf (.cmdTx 3 0xD0#8 true false true) = some (.outbound, 3) ∧
    wellFormed cfgLow (.cmdRx 0 0xD0#8 true false true) = true ∧
    wellFormed cfgLow (.rsp 3 0xD0#8 true 0xFFFFFE#24) = true ∧
    queueOf (.rsp 3 0xD0#8 true 0xFFFFFE#24) = some (.inbound, 3) := by decide
theorem witness_EncodeOfDecodeIsTheWord : cfg2.Valid ∧
    decodeWord cfg2 .outbound 7 0xFFF00000#32 = .ok (.cmdRx 7 0xFF#8 true true true) ∧
    decodeWord cfg2 .outbound 7 0xFFF80000#32 = .rejected .unusedBitsSet := by decide
theorem witness_CreateChannelAllocates : cfg2.Valid ∧ (one [] [] 0).hostAccepts (.createChannel 6 .fast) = true ∧
    (one [] [] 0).nChannels ≠ (one [] [] 0).cfg.maxChannels := by decide
theorem witness_CreateChannelAllocates_capacity :
    (withChannels Config.default [chan 0 [] [] 0, chan 1 [] [] 0, chan 2 [] [] 0, chan 3 [] [] 0]).nChannels =
      Config.default.maxChannels := by decide
theorem witness_AllocationIsSequential :
    [(6, SpeedClass.fast), (10, .standard), (6, .fast), (6, .speed3)].length = Config.default.maxChannels := by decide
theorem witness_AllocationIsSequential_below :
    [(6, SpeedClass.fast)].length < Config.default.maxChannels ∧ ∃ t, exec .describeChannels State.reset = .next t :=
  ⟨by decide, _, rfl⟩
theorem witness_DescribeChannelsReturnsTheTable : (one [] [] 0).hostAccepts .describeChannels = true ∧
    (one [] [] 0).row 0 = some (chan 0 [] [] 0) := by decide
theorem witness_SubmitAppendsItsWord : ((one [0x3B000000#32] [] 0).hold (.submit 0 0xD0#8 start)).hostAccepts
      (.submit 0 0xD0#8 start) = true ∧
    ((one [0x3B000000#32] [] 0).hold (.submit 0 0xD0#8 start)).row 0 = some (chan 0 [0x3B000000#32] [] 0) ∧
    start.valid = true ∧ (chan 0 [0x3B000000#32] [] 0).txq.length < cfg2.txqDepth := by decide
theorem witness_ReceiveTakesTheOldestWord : (one [] [0x5A100000#32] 0).hostAccepts (.receive 0) = true ∧
    (one [] [0x5A100000#32] 0).row 0 = some (chan 0 [] [0x5A100000#32] 0) ∧
    (one [] [] 0).hostAccepts (.receive 0) = true ∧ (one [] [] 0).row 0 = some (chan 0 [] [] 0) ∧
    (one [] [] 0).hostAccepts (.receive 1) = true ∧ (one [] [] 0).nChannels ≤ 1 := by decide
theorem witness_SubmitHoldsWhileFull : nested.fatal = none ∧
    (one full4 [] 0).hostAccepts (.submit 0 0xD0#8 start) = true ∧ (one full4 [] 0).row 0 = some (chan 0 full4 [] 0) ∧
    start.valid = true ∧ cfg2.txqDepth ≤ (chan 0 full4 [] 0).txq.length := by decide
theorem witness_OnlySubmitAndReceiveWait : isHostOp (.receive 0) = true ∧ (one [] [] 0).contexts.topHeld = none ∧
    ∃ t, exec (.receive 0) (one [] [] 0) = .next t ∧ t.contexts.topHeld ≠ none := ⟨rfl, rfl, _, rfl, by decide⟩
theorem witness_TakeLiftsTheHoldOfSubmit : ((one full4 [] 0).hold (.submit 0 0#8 start)).fatal = none ∧
    ((one full4 [] 0).hold (.submit 0 0#8 start)).contexts.topHeld = some (.submit 0 0#8 start) ∧
    ((one full4 [] 0).hold (.submit 0 0#8 start)).row 0 = some (chan 0 full4 [] 0) ∧ start.valid = true ∧
    full4 = 0xD0800000#32 :: full4.tail ∧ full4.length = cfg2.txqDepth ∧ mayOweMore cfg2 0 = true := by decide
theorem witness_FourSubmitsNeverWait : cfg2.Valid ∧ (one [] [] 0).fatal = none ∧ (one [] [] 0).contexts.topHeld = none ∧
    (one [] [] 0).row 0 = some (chan 0 [] [] 0) ∧ (chan 0 [] [] 0).txq = [] ∧ start.valid = true ∧ readAck.valid = true := by
  decide
theorem witness_BindRegistersTheOneHandler : (one [] [] 0).irqBlocks.map (fun b => b.block) = cfg2.irqBlocks ∧
    (one [] [] 0).hostAccepts (bindOp .inbound 0 h1) = true ∧ (one [] [] 0).row 0 = some (chan 0 [] [] 0) ∧
    (chan 0 [] [] 0).info.block ∈ cfg2.irqBlocks ∧ (one [] [] 0).handler ⟨0, .inbound⟩ = none ∧
    (one [] [] 0).nChannels ≤ 1 := by decide
theorem witness_BindRegistersTheOneHandler_errors : armed.irqBlocks.map (fun b => b.block) = cfg2.irqBlocks ∧
    armed.hostAccepts (bindOp .inbound 0 h2) = true ∧ armed.handler ⟨0, .inbound⟩ = some h1 ∧
    (five (chan 0 [] [] 0)).row 4 = some (chan 4 [] [] 0) ∧ (chan 4 [] [] 0).info.block ∉ cfg2.irqBlocks := by decide
theorem witness_SetInterruptWritesTheEnable : (one [] [] 0).hostAccepts (setOp .outbound 0 true) = true ∧
    (one [] [] 0).row 0 = some (chan 0 [] [] 0) ∧ ready cfg2 (chan 0 [] [] 0) .outbound = true ∧
    (one [] [] 0).hostAccepts (setOp .outbound 1 true) = true ∧ (one [] [] 0).nChannels ≤ 1 := by decide
/-- Channel 0 is the only one of `armed`, so no other channel requests. -/
theorem witness_DisarmingStopsNewEntries : armed.hostAccepts (setOp .inbound 0 false) = true ∧ (armed.row 0).isSome ∧
    (∀ ch' r', ch' ≠ 0 → armed.row ch' = some r' → r'.info.block = 0 → r'.requests armed.cfg .inbound = false) ∧
    ∃ t, exec (setOp .inbound 0 false) armed = .next t := by
  refine ⟨by decide, by decide, fun ch' r' h hr _ => ?_, _, rfl⟩
  match ch', h, hr with
  | 0, h, _ => exact absurd rfl h
  | n + 1, _, hr => cases hr
theorem witness_RefusalsAreTheTwoNamedOnes : exec (.receive 1) (one [] [] 0) = .refused .invalidChannel ∧
    exec (.encode 0#8 both) (one [] [] 0) = .refused .invalidFlagSet := ⟨rfl, rfl⟩
theorem witness_EngineTakeRemovesTheHead : (one [0xFF200000#32] [] 1).row 0 = some (chan 0 [0xFF200000#32] [] 1) ∧
    mayOweMore cfg2 1 = true ∧ (one [0xFF200000#32] [] 1).nChannels ≤ 1 ∧
    (one [] [] 1).row 0 = some (chan 0 [] [] 1) ∧
    (one [0xFF200000#32] [] 2).row 0 = some (chan 0 [0xFF200000#32] [] 2) ∧ cfg2.engineMaxOwed = some 2 := by decide
theorem witness_EngineTake_full : full4.length = cfg2.txqDepth ∧ (one full4 [] 0).row 0 = some (chan 0 full4 [] 0) := by
  decide
theorem witness_EngineGiveAppendsTheDraw : (one [] [0#32] 1).row 0 = some (chan 0 [] [0#32] 1) ∧
    (chan 0 [] [0#32] 1).rxq.length < cfg2.rxqDepth ∧ (one [] [0#32, 0#32] 1).row 0 = some (chan 0 [] [0#32, 0#32] 1) ∧
    cfg2.rxqDepth ≤ (chan 0 [] [0#32, 0#32] 1).rxq.length := by decide
theorem witness_CommandWordsAreConsumed : cfg2.Valid ∧
    (one [0xD0800000#32] [] 1).row 0 = some (chan 0 [commandWord cfg2 0xD0#8 true false false false] [] 1) ∧
    (one [0xFF700000#32] [] 1).row 0 = some (chan 0 [commandWord cfg2 0xFF#8 false true true true] [] 1) ∧
    (one [] [] 0).headWord .outbound 0 ≠ some (commandWord cfg2 0xD0#8 true false false false) := by decide
theorem witness_ResponseWordsAreReceived : wellFormed cfg2 (.rsp 0 0x5A#8 true 0#24) = true ∧
    (one [] [0x5A100000#32] 0).hostAccepts (.rsp 0 0x5A#8 true 0#24) = true ∧
    (one [] [0x5A100000#32] 0).row 0 = some (chan 0 [] [responseWord cfg2 0x5A#8 true 0#24] 0) := by decide
theorem witness_QueueOperationsExecuteTheirWords : cfg2.Valid ∧
    (one [0xD0800000#32] [] 0).headWord .outbound 0 = some 0xD0800000#32 ∧
    decodeWord cfg2 .outbound 0 0xD0800000#32 = .ok (.cmdTx 0 0xD0#8 true false false) ∧
    (one [] [0x5A100000#32] 0).headWord .inbound 0 = some 0x5A100000#32 := by decide
/-- Channels 0 and 4 of `five`, with work for both engines. -/
def twoEngines : State :=
  withChannels cfg2 [chan 0 [0xFF200000#32] [] 0, chan 1 [0xD0800000#32] [] 1]
theorem witness_EnginesAreIndependent : engineChannel (.engineTake 0) = some 0 ∧ engineChannel (.engineGive 1 7#32) = some 1 ∧
    ∃ t, exec (.engineTake 0) twoEngines = .next t ∧ t ≠ twoEngines := ⟨rfl, rfl, _, rfl, by decide⟩
theorem witness_EngineTouchesOnlyTheQueues : engineChannel (.cmdRx 0 0xFF#8 false false false) = some 0 ∧
    ∃ t, exec (.cmdRx 0 0xFF#8 false false false) twoEngines = .next t ∧ t ≠ twoEngines := ⟨rfl, _, rfl, by decide⟩
theorem witness_EngineStepsCommute : ∃ t u, exec (.engineTake 0) twoEngines = .next t ∧
    exec (.engineGive 1 7#32) t = .next u ∧ t ≠ twoEngines ∧ u ≠ t := ⟨_, _, rfl, rfl, by decide, by decide⟩
theorem witness_IrqEnterInvokesTheHandler : armed.fatal = none ∧ 0 ∈ armed.cfg.irqBlocks ∧
    armed.handler ⟨0, .inbound⟩ = some h1 ∧ armed.irqReq ⟨0, .inbound⟩ = true ∧ armed.inService ⟨0, .inbound⟩ = false ∧
    mayPreempt armed.cfg armed.contexts.top ⟨0, .inbound⟩ = true ∧
    mayPreempt nested.cfg nested.contexts.top ⟨0, .inbound⟩ = true := by decide
theorem witness_IrqEnterNeedsEveryCondition : ∃ t, exec (.irqEnter 0 .inbound) nested = .next t ∧ t ≠ nested :=
  ⟨_, rfl, by decide⟩
theorem witness_IrqReturnResumesTheContextBelow : nested.fatal = none ∧ nested.contexts.top = .irq ⟨0, .outbound⟩ ∧
    nested.contexts.topHeld = none ∧ (nested.hold (.receive 0)).contexts.topHeld ≠ none ∧
    armed.contexts.top ≠ .irq ⟨0, .outbound⟩ := by decide
theorem witness_ArmingMayFireAtOnce : armed.fatal = none ∧ armed.contexts = ⟨none, []⟩ ∧ (armed.row 0).isSome ∧
    (∀ r, armed.row 0 = some r → ready armed.cfg r .inbound = true ∧ r.info.block ∈ armed.cfg.irqBlocks ∧
      armed.handler ⟨r.info.block, .inbound⟩ = some h1 ∧ armed.inService ⟨r.info.block, .inbound⟩ = false) := by
  refine ⟨by decide, by decide, by decide, fun r h => ?_⟩
  cases h
  decide
theorem witness_NotEnabledMeansNoStep : (one full4 [] 0).enabled (.submit 0 0#8 start) = false ∧
    (one [] [] 0).enabled (.engineTake 0) = false := by decide
/-- `busy` after a fatal error, with this event next. -/
def ended (e : Event) : State := { busy with fatal := some .capacityExceeded, schedule := [e] }
theorem witness_FatalErrorEndsTheHostProgram :
    (ended (.perform (.host (.irq (irqId 0 .inbound))) (.encode 0#8 start))).fatal = some .capacityExceeded ∧
    (ended (.perform (.host (.irq (irqId 0 .inbound))) (.encode 0#8 start))).schedule =
      [.perform (.host (.irq (irqId 0 .inbound))) (.encode 0#8 start)] ∧
    (ended (.perform .dispatcher (.irqReturn 0 .inbound))).schedule = [.perform .dispatcher (.irqReturn 0 .inbound)] ∧
    isCodecOp (.irqReturn 0 .inbound) = false ∧
    (ended (.fetchResponse (.irq (irqId 0 .inbound)) 0)).schedule = [.fetchResponse (.irq (irqId 0 .inbound)) 0] ∧
    ∃ t, step (ended (.perform (.engine 0) (.engineTake 0))) = .next t := ⟨rfl, rfl, rfl, rfl, rfl, _, rfl⟩
/-- Without the fatal error each of these three events does something. -/
theorem test_before_fatal :
    nextOf (step (busy.withSchedule [.perform (.host (.irq (irqId 0 .inbound))) (.encode 0#8 start)])) ≠
      some (busy.withSchedule []) ∧
    nextOf (step (busy.withSchedule [.perform .dispatcher (.irqReturn 0 .inbound)])) ≠ some (busy.withSchedule []) ∧
    nextOf (step (busy.withSchedule [.fetchResponse (.irq (irqId 0 .inbound)) 0])) ≠ some (busy.withSchedule []) := by
  decide
theorem witness_StepRunsTheScheduledInstruction : busy.schedule = [.perform (.engine 0) (.engineTake 0)] ∧
    busy.mayPerform (.engine 0) (.engineTake 0) = true ∧ busy.mayPerform (.host .foreground) (.receive 1) = false := by decide
theorem witness_StepRunsTheDecodedWord : wellFormed cfg2 (.cmdRx 0 0xFF#8 false false false) = true ∧
    busy.headWord .outbound 0 = some 0xFF200000#32 ∧
    decodeWord busy.cfg .outbound 0 0xFF200000#32 = .ok (.cmdRx 0 0xFF#8 false false false) ∧
    wellFormed cfg2 (.rsp 0 0x5A#8 true 0#24) = true ∧ busy.hostAccepts (.receive 0) = true ∧
    busy.headWord .inbound 0 = some 0x5A100000#32 ∧
    decodeWord busy.cfg .inbound 0 0x5A100000#32 = .ok (.rsp 0 0x5A#8 true 0#24) := by decide
theorem witness_EachAgentPerformsOnlyItsOwnSteps : isCodecOp (.engineTake 0) = false ∧
    isHostOp (.engineTake 0) = false ∧ Ctx.foreground ≠ busy.contexts.top ∧ engineChannel (.engineTake 0) ≠ some 1 ∧
    isDispatcherOp (.engineTake 0) = false := by decide
theorem witness_HostOperationsIgnoreTheContext : isHostOp (.receive 0) = true ∧ armed.contexts.topHeld = none ∧
    nested.contexts.topHeld = none ∧ ∃ t, exec (.receive 0) armed = .next t ∧ t.contexts.topHeld = none :=
  ⟨rfl, rfl, rfl, _, rfl, rfl⟩
theorem witness_QueuesChangeOnlyAtTheirEnds : (twoEngines.row 1).isSome ∧
    (∃ t, exec (.engineGive 1 7#32) twoEngines = .next t ∧ t ≠ twoEngines) ∧
    (∃ t, exec (.submit 1 0#8 start) twoEngines = .next t ∧ t ≠ twoEngines) :=
  ⟨by decide, ⟨_, rfl, by decide⟩, ⟨_, rfl, by decide⟩⟩
theorem witness_OperationsTouchOnlyTheirTableRow : ∃ t, exec (.bindOutboundHandler 0 h2) armed = .next t ∧ t ≠ armed :=
  ⟨_, rfl, by decide⟩
theorem witness_runs : (∃ t, runOps [.submit 1 0#8 lastRead, .engineTake 1, .engineGive 1 7#32, .receive 1] twoEngines = some t) ∧
    (twoEngines.row 1).isSome ∧
    collect (takenFrom 1) [.submit 1 0#8 lastRead, .engineTake 1, .engineGive 1 7#32, .receive 1] twoEngines =
      [0xD0800000#32] := ⟨⟨_, rfl⟩, by decide, by decide⟩
theorem witness_ReceiveWithNothingOwedNeverReturns : cfg2.Valid ∧
    (∃ t, runOps [.engineTake 0, .submit 0 1#8 start] (one [0xD0800000#32] [] 0) = some t) ∧
    (one [0xD0800000#32] [] 0).row 0 = some (chan 0 [0xD0800000#32] [] 0) ∧ wordReply cfg2 0xD0800000#32 = false ∧
    submitsRead 0 (.engineTake 0) = false ∧ submitsRead 0 (.submit 0 1#8 start) = false :=
  ⟨by decide, ⟨_, rfl⟩, by decide, by decide, by decide, by decide⟩

/-- Bit 0 is outside the fields. -/
theorem witness_FetchRefusesOnlyUnreachableWords : busy.Inv ∧
    { one [0x00000001#32] [] 0 with schedule := [.fetchCommand 0] }.schedule = [.fetchCommand 0] ∧
    { one [0x00000001#32] [] 0 with schedule := [.fetchCommand 0] }.headWord .outbound 0 = some 0x00000001#32 ∧
    (0x00000001#32).getLsbD 0 = true ∧ 0 ≠ cfg2.cmdStartBit.val ∧ 0 ≠ cfg2.cmdStopBit.val ∧
    0 ≠ cfg2.cmdReplyBit.val ∧ 0 ≠ cfg2.cmdNackBit.val :=
  ⟨witness_Inv, rfl, rfl, rfl, by decide, by decide, by decide, by decide⟩

end Sys2Proof.Tests
end

/-! SUPPORT. How an operation and a step change the channel table (10_state.md R11, R24), and from that the settling of O45: the attributes of a channel (R13). -/

namespace Sys2Proof.Machine

/-! ### What an operation writes into the channel table -/

/-- The row `r` of channel `ch` may become `r'` by the operation `i`: one line for each operation that writes a row,
with what it needs of the row (10_state.md R24). -/
inductive RowWrite (s : State) (ch : Nat) (r : Channel) : Instr → Channel → Prop
  | submit (d : Byte) (f : FlagSet) (valid : f.valid = true) (room : txReady s.cfg r = true) :
    RowWrite s ch r (.submit ch d f)
      { r with txq := qPush r.txq (commandWord s.cfg d f.start f.stop f.reply f.nack) }
  | receive (w : Word) (q : List Word) (head : r.rxq = w :: q) : RowWrite s ch r (.receive ch) { r with rxq := q }
  | rsp (d : Byte) (n : Bool) (g : BitVec 24) (q : List Word) (head : r.rxq = responseWord s.cfg d n g :: q) :
    RowWrite s ch r (.rsp ch d n g) { r with rxq := q }
  | bind (c : IrqClass) (x : HandlerRef) (supported : r.info.block ∈ s.cfg.irqBlocks)
    (unbound : s.handler ⟨r.info.block, c⟩ = none) :
    RowWrite s ch r (bindOp c ch x) { r with info := r.info.withIrqId c (irqId r.info.block c) }
  | set (c : IrqClass) (v : Bool) : RowWrite s ch r (setOp c ch v) (r.withEnabled c v)
  | take (i : Instr) (w : Word) (q : List Word) (takes : takesCommand i = some ch) (head : r.txq = w :: q)
    (limit : mayOweMore s.cfg r.owed = true) :
    RowWrite s ch r i { r with txq := q, owed := if wordReply s.cfg w then r.owed + 1 else r.owed }
  | give (w : Word) (owes : 0 < r.owed) (room : rxRoom s.cfg r = true) :
    RowWrite s ch r (.engineGive ch w) { r with rxq := qPush r.rxq w, owed := r.owed - 1 }

/-- What the operation `i` may make of the channel table: nothing new, one channel more, or one row written. -/
inductive TableChange (s : State) (i : Instr) : List Channel → Prop
  | same : TableChange s i s.channels
  | created (p : Nat) (v : SpeedClass) (op : i = .createChannel p v) (room : s.nChannels ≠ s.cfg.maxChannels) :
    TableChange s i (s.channels ++ [newChannel s.cfg s.nChannels p v])
  | written {ch : Nat} {r r' : Channel} (row : s.row ch = some r) (write : RowWrite s ch r i r') :
    TableChange s i (s.channels.set ch r')

/-- The binds share their body, so they change the table in one way. -/
theorem State.bindHandler_table {s t : State} {ch : Nat} {r : Channel} {c : IrqClass} {x : HandlerRef}
    (hr : s.row ch = some r) (h : s.bindHandler ch r c x = .next t) :
    t.cfg = s.cfg ∧ TableChange s (bindOp c ch x) t.channels := by
  rcases State.bindHandler_next h with ⟨-, rfl⟩ | ⟨-, -, rfl⟩ | ⟨hb, hn, rfl⟩
  · exact ⟨rfl, .same⟩
  · exact ⟨rfl, .same⟩
  · exact ⟨rfl, .written hr (.bind c x hb hn)⟩

/-- The word instructions of the engine change the table as ENGINE_TAKE does. -/
theorem State.consumeCommand_table {s t : State} {ch : Nat} {w : Word} {i : Instr} (hi : takesCommand i = some ch)
    (h : s.consumeCommand ch w = .next t) : t.cfg = s.cfg ∧ TableChange s i t.channels := by
  rcases State.consumeCommand_next h with rfl | ⟨r, q, hr, hq, hm, rfl⟩
  · exact ⟨rfl, .same⟩
  · exact ⟨rfl, .written hr (.take i w q hi hq hm)⟩

/-- An operation writes no parameter, and changes the channel table in one of the ways listed. -/
theorem exec_table {s t : State} {i : Instr} (h : exec i s = .next t) :
    t.cfg = s.cfg ∧ TableChange s i t.channels := by
  cases i with
  | encode d f =>
    obtain ⟨-, rfl⟩ := execEncode_next h
    exact ⟨rfl, .same⟩
  | decode w =>
    obtain rfl := execDecode_next h
    exact ⟨rfl, .same⟩
  | createChannel p v =>
    rcases execCreateChannel_next h with ⟨-, rfl⟩ | ⟨-, -, rfl⟩ | ⟨-, hn, rfl⟩
    · exact ⟨rfl, .same⟩
    · exact ⟨rfl, .same⟩
    · exact ⟨rfl, .created p v rfl hn⟩
  | describeChannels =>
    rcases execDescribeChannels_next h with rfl | ⟨-, rfl⟩
    · exact ⟨rfl, .same⟩
    · exact ⟨rfl, .same⟩
  | submit ch d f =>
    rcases execSubmit_next h with ⟨-, rfl⟩ | ⟨-, r, hr, hv, ⟨hx, rfl⟩ | ⟨-, rfl⟩⟩
    · exact ⟨rfl, .same⟩
    · exact ⟨rfl, .written hr (.submit d f hv hx)⟩
    · exact ⟨rfl, .same⟩
  | receive ch =>
    rcases execReceive_next h with ⟨-, rfl⟩ | ⟨-, r, hr, ⟨-, rfl⟩ | ⟨w, q, hq, rfl⟩⟩
    · exact ⟨rfl, .same⟩
    · exact ⟨rfl, .same⟩
    · exact ⟨rfl, .written hr (.receive w q hq)⟩
  | bindOutboundHandler ch x =>
    rcases execBindOutboundHandler_next h with ⟨-, rfl⟩ | ⟨-, r, hr, hb⟩
    · exact ⟨rfl, .same⟩
    · exact State.bindHandler_table hr hb
  | bindInboundHandler ch x =>
    rcases execBindInboundHandler_next h with ⟨-, rfl⟩ | ⟨-, r, hr, hb⟩
    · exact ⟨rfl, .same⟩
    · exact State.bindHandler_table hr hb
  | setOutboundInterrupt ch v =>
    rcases execSetOutboundInterrupt_next h with ⟨-, rfl⟩ | ⟨-, r, hr, rfl⟩
    · exact ⟨rfl, .same⟩
    · exact ⟨rfl, .written hr (.set .outbound v)⟩
  | setInboundInterrupt ch v =>
    rcases execSetInboundInterrupt_next h with ⟨-, rfl⟩ | ⟨-, r, hr, rfl⟩
    · exact ⟨rfl, .same⟩
    · exact ⟨rfl, .written hr (.set .inbound v)⟩
  | engineTake ch =>
    rcases execEngineTake_next h with rfl | ⟨r, w, q, hr, hq, hm, rfl⟩
    · exact ⟨rfl, .same⟩
    · exact ⟨rfl, .written hr (.take _ w q rfl hq hm)⟩
  | engineGive ch w =>
    rcases execEngineGive_next h with rfl | ⟨r, hr, ho, hx, rfl⟩
    · exact ⟨rfl, .same⟩
    · exact ⟨rfl, .written hr (.give w ho hx)⟩
  | irqEnter b c =>
    rcases execIrqEnter_next h with rfl | ⟨x, -, -, rfl⟩
    · exact ⟨rfl, .same⟩
    · exact ⟨rfl, .same⟩
  | irqReturn b c =>
    rcases execIrqReturn_next h with rfl | ⟨-, rfl⟩
    · exact ⟨rfl, .same⟩
    · exact ⟨rfl, .same⟩
  | cmdTx ch d st sp n => exact State.consumeCommand_table rfl h
  | cmdRx ch d st sp n => exact State.consumeCommand_table rfl h
  | rsp ch d n g =>
    rcases execRsp_next h with rfl | ⟨-, r, q, hr, hq, rfl⟩
    · exact ⟨rfl, .same⟩
    · exact ⟨rfl, .written hr (.rsp d n g q hq)⟩

/-! ### One row, across an operation and across a step -/

/-- A created channel stays, and its row changes only by an operation that writes it (R11, R24). -/
theorem TableChange.row {s : State} {i : Instr} {cs : List Channel} {ch : Nat} {r : Channel}
    (h : TableChange s i cs) (hr : s.row ch = some r) :
    ∃ r', cs[ch]? = some r' ∧ (r' = r ∨ RowWrite s ch r i r') := by
  have hlt : ch < s.channels.length := State.lt_of_row hr
  cases h with
  | same => exact ⟨r, hr, .inl rfl⟩
  | created p v op room => exact ⟨r, by rwa [List.getElem?_append_left hlt], .inl rfl⟩
  | @written ch' r₀ r₁ row write =>
    by_cases hc : ch' = ch
    · subst hc
      obtain rfl : r₀ = r := Option.some.inj (row.symm.trans hr)
      exact ⟨r₁, List.getElem?_set_self hlt, .inr write⟩
    · exact ⟨r, by rwa [List.getElem?_set_ne hc], .inl rfl⟩

/-- A row that was not there is the one CREATE_CHANNEL makes, at the next id (R110). -/
theorem TableChange.row_created {s : State} {i : Instr} {cs : List Channel} {ch : Nat} {r' : Channel}
    (h : TableChange s i cs) (hr : s.row ch = none) (hr' : cs[ch]? = some r') :
    ∃ p v, i = .createChannel p v ∧ r' = newChannel s.cfg ch p v := by
  have hle : s.channels.length ≤ ch := State.row_eq_none.mp hr
  cases h with
  | same => cases hr.symm.trans hr'
  | created p v op room =>
    rw [List.getElem?_append_right hle, List.getElem?_singleton] at hr'
    split at hr'
    · obtain rfl : ch = s.nChannels := Nat.le_antisymm (Nat.sub_eq_zero_iff_le.mp ‹_›) hle
      exact ⟨p, v, op, (Option.some.inj hr').symm⟩
    · cases hr'
  | written row write =>
    rw [List.getElem?_eq_none (by simpa using hle)] at hr'
    cases hr'

theorem exec_row {s t : State} {i : Instr} {ch : Nat} {r : Channel} (h : exec i s = .next t)
    (hr : s.row ch = some r) : ∃ r', t.row ch = some r' ∧ (r' = r ∨ RowWrite s ch r i r') :=
  (exec_table h).2.row hr

theorem exec_row_created {s t : State} {i : Instr} {ch : Nat} {r' : Channel} (h : exec i s = .next t)
    (hr : s.row ch = none) (hr' : t.row ch = some r') :
    ∃ p v, i = .createChannel p v ∧ r' = newChannel s.cfg ch p v :=
  (exec_table h).2.row_created hr hr'

/-- No step writes a parameter (R24). -/
theorem step_cfg {s t : State} (h : step s = .next t) : t.cfg = s.cfg := by
  rcases step_next h with ⟨-, rfl⟩ | ⟨e, es, -, -, rfl⟩ | ⟨e, es, i, -, -, hx⟩
  · rfl
  · rfl
  · exact (exec_table hx).1

/-- A created channel stays, and a step that changes its row runs an operation that writes it. -/
theorem step_row {s t : State} {ch : Nat} {r : Channel} (h : step s = .next t) (hr : s.row ch = some r) :
    ∃ r', t.row ch = some r' ∧ (r' = r ∨ ∃ e es i, s.schedule = e :: es ∧
      (s.withSchedule es).select e = .run i ∧ RowWrite (s.withSchedule es) ch r i r') := by
  rcases step_next h with ⟨-, rfl⟩ | ⟨e, es, -, -, rfl⟩ | ⟨e, es, i, hs, hsel, hx⟩
  · exact ⟨r, hr, .inl rfl⟩
  · exact ⟨r, hr, .inl rfl⟩
  · obtain ⟨r', hr', hw⟩ := exec_row hx hr
    exact ⟨r', hr', hw.imp_right fun w => ⟨e, es, i, hs, hsel, w⟩⟩

/-- A row that a step adds is a newly created one. -/
theorem step_row_created {s t : State} {ch : Nat} {r' : Channel} (h : step s = .next t) (hr : s.row ch = none)
    (hr' : t.row ch = some r') : ∃ p v, r' = newChannel s.cfg ch p v := by
  rcases step_next h with ⟨-, rfl⟩ | ⟨e, es, -, -, rfl⟩ | ⟨e, es, i, -, -, hx⟩
  · cases hr.symm.trans hr'
  · cases hr.symm.trans hr'
  · obtain ⟨p, v, -, e⟩ := exec_row_created hx hr hr'
    exact ⟨p, v, e⟩

/-! ### Who runs a bind -/

/-- The decoder reads, in a queue of a channel, an instruction of that queue (R60). -/
theorem queueOf_of_decodeWord {c : Config} {k : QueueKind} {ch : Nat} {w : Word} {i : Instr}
    (h : decodeWord c k ch w = .ok i) : queueOf i = some (k, ch) := by
  cases k with
  | outbound =>
    simp only [decodeWord, decodeCommand] at h
    split at h
    · split at h
      · cases h; rfl
      · cases h; rfl
    · cases h
  | inbound => cases h; rfl

/-- A fetched instruction is one of the queue it is fetched from. -/
theorem State.queueOf_of_fetch {s : State} {k : QueueKind} {ch : Nat} {i : Instr} (h : s.fetch k ch = .run i) :
    queueOf i = some (k, ch) := by
  unfold State.fetch at h
  split at h
  · cases h
  · split at h
    · cases h
      exact queueOf_of_decodeWord ‹_›
    · cases h

/-- An operation without a word is run only when its agent performs it by name (R71). -/
theorem State.perform_of_select {s : State} {e : Event} {i : Instr} (hi : queueOf i = none)
    (h : s.select e = .run i) : ∃ a, e = .perform a i ∧ s.mayPerform a i = true := by
  cases e with
  | perform a j =>
    simp only [State.select] at h
    split at h
    · cases h
      exact ⟨a, rfl, ‹_›⟩
    · cases h
  | fetchCommand ch => cases hi.symm.trans (State.queueOf_of_fetch h)
  | fetchResponse k ch =>
    simp only [State.select] at h
    split at h
    · cases hi.symm.trans (State.queueOf_of_fetch h)
    · cases h

/-- Only a host context binds (R6). -/
theorem State.host_of_mayPerform_bindOp {s : State} {a : Agent} {c : IrqClass} {ch : Nat} {x : HandlerRef}
    (h : s.mayPerform a (bindOp c ch x) = true) : ∃ k, a = .host k := by
  cases a with
  | host k => exact ⟨k, rfl⟩
  | engine ch' => cases c <;> simp [State.mayPerform, bindOp, engineChannel, isCodecOp] at h
  | dispatcher => cases c <;> simp [State.mayPerform, bindOp, isDispatcherOp, isCodecOp] at h

/-- A bind that a step runs is performed by a host context. -/
theorem State.select_bindOp {s : State} {e : Event} {c : IrqClass} {ch : Nat} {x : HandlerRef}
    (h : s.select e = .run (bindOp c ch x)) : ∃ k, e = .perform (.host k) (bindOp c ch x) := by
  have hq : queueOf (bindOp c ch x) = none := by cases c <;> rfl
  obtain ⟨a, rfl, hp⟩ := State.perform_of_select hq h
  obtain ⟨k, rfl⟩ := State.host_of_mayPerform_bindOp hp
  exact ⟨k, rfl⟩

/-! ### The attributes of a channel -/

@[simp] theorem ChannelRecord.withIrqId_sdaPin (r : ChannelRecord) (c : IrqClass) (id : IrqId) :
    (r.withIrqId c id).sdaPin = r.sdaPin := by cases c <;> rfl
@[simp] theorem ChannelRecord.withIrqId_speed (r : ChannelRecord) (c : IrqClass) (id : IrqId) :
    (r.withIrqId c id).speed = r.speed := by cases c <;> rfl
@[simp] theorem ChannelRecord.withIrqId_block (r : ChannelRecord) (c : IrqClass) (id : IrqId) :
    (r.withIrqId c id).block = r.block := by cases c <;> rfl
@[simp] theorem ChannelRecord.withIrqId_lane (r : ChannelRecord) (c : IrqClass) (id : IrqId) :
    (r.withIrqId c id).lane = r.lane := by cases c <;> rfl

theorem ChannelRecord.irqIdOf_withIrqId (r : ChannelRecord) (c c' : IrqClass) (id : IrqId) :
    (r.withIrqId c id).irqIdOf c' = if c' = c then some id else r.irqIdOf c' := by
  cases c <;> cases c' <;> rfl

@[simp] theorem Channel.withEnabled_info (r : Channel) (c : IrqClass) (v : Bool) :
    (r.withEnabled c v).info = r.info := by cases c <;> rfl

/-- Only a bind writes a channel's record, and a bind sets one interrupt id of it (R24, R150). -/
theorem RowWrite.info {s : State} {ch : Nat} {r r' : Channel} {i : Instr} (h : RowWrite s ch r i r') :
    r'.info = r.info ∨ ∃ c x, i = bindOp c ch x ∧ s.handler ⟨r.info.block, c⟩ = none ∧
      r'.info = r.info.withIrqId c (irqId r.info.block c) := by
  cases h with
  | bind c x supported unbound => exact .inr ⟨c, x, rfl, unbound, rfl⟩
  | set c v => exact .inl (Channel.withEnabled_info r c v)
  | _ => exact .inl rfl

/-- A recorded interrupt id is that of a bound slot, so in a good row none is recorded where no handler is bound. -/
theorem Channel.Ok.irqIdOf_eq_none {s : State} {ch : Nat} {r : Channel} {c : IrqClass} (h : Channel.Ok s ch r)
    (hn : s.handler (irqId r.info.block c) = none) : r.info.irqIdOf c = none := by
  have bound : ∀ id, r.info.irqIdOf c = some id → id = irqId r.info.block c ∧ (s.handler id).isSome = true := by
    cases c with
    | outbound => exact h.out_id
    | inbound => exact h.in_id
  refine Option.eq_none_iff_forall_ne_some.mpr fun id hid => ?_
  obtain ⟨rfl, hs⟩ := bound id hid
  simp [hn] at hs

/-- The record of a channel across a step: the same, or one interrupt id of it set by a host's bind of the channel,
in a slot where no handler was bound. -/
theorem step_info {s t : State} {ch : Nat} {r : Channel} (h : step s = .next t) (hr : s.row ch = some r) :
    ∃ r', t.row ch = some r' ∧ (r'.info = r.info ∨ ∃ c k x es,
      s.schedule = .perform (.host k) (bindOp c ch x) :: es ∧ s.handler (irqId r.info.block c) = none ∧
      r'.info = r.info.withIrqId c (irqId r.info.block c)) := by
  obtain ⟨r', hr', rfl | ⟨e, es, i, hs, hsel, hw⟩⟩ := step_row h hr
  · exact ⟨r', hr', .inl rfl⟩
  refine ⟨r', hr', ?_⟩
  rcases hw.info with hi | ⟨c, x, rfl, hn, hi⟩
  · exact .inl hi
  · obtain ⟨k, rfl⟩ := State.select_bindOp hsel
    exact .inr ⟨c, k, x, es, hs, hn, hi⟩

/-- Settles O45: only a bind writes a record, it writes one interrupt id, and the invariant says that this id was none
because no handler was bound. -/
theorem channelAttributesAreImmutable : Obligations.ChannelAttributesAreImmutable := by
  intro s ch hinv
  refine ⟨fun r hr => ⟨(hinv.rows ch r hr).block_eq, (hinv.rows ch r hr).lane_eq⟩, fun t ht => ⟨?_, ?_⟩⟩
  · intro r hr
    obtain ⟨r', hr', hi | ⟨c₀, k, x, es, hs, hn, hi⟩⟩ := step_info ht hr
    · exact ⟨r', hr', by simp [hi]⟩
    · refine ⟨r', hr', by simp [hi], by simp [hi], by simp [hi], by simp [hi], fun c => ?_⟩
      by_cases hc : c = c₀
      · subst hc
        exact .inr ⟨(hinv.rows ch r hr).irqIdOf_eq_none hn, by simp [hi, ChannelRecord.irqIdOf_withIrqId],
          k, x, es, hs⟩
      · exact .inl (by simp [hi, ChannelRecord.irqIdOf_withIrqId, hc])
  · intro hr r' hr'
    obtain ⟨p, v, rfl⟩ := step_row_created ht hr hr'
    rw [step_cfg ht]
    exact ⟨rfl, rfl, fun c => by cases c <;> rfl⟩

end Sys2Proof.Machine

/-! SUPPORT. Delivery of command words (20_memory.md R14, R48): which operations change `txq[ch]`, what each of them observes there, and over any run the law that what was queued and submitted is what was taken and what is left. Settles O49. -/

namespace Sys2Proof.Machine

/-! ### Runs, one operation at a time -/

/-- A run of one operation more is that operation, answered, and a run from there. -/
theorem runOps_cons_eq_some {i : Instr} {is : List Instr} {s t : State} :
    runOps (i :: is) s = some t ↔ ∃ u, exec i s = .next u ∧ runOps is u = some t := by
  rw [runOps]
  cases exec i s <;> simp

/-- An answered operation adds what it shows to what the rest of the run shows. -/
theorem collect_cons {α : Type} (f : Instr → State → List α) {i : Instr} {is : List Instr} {s u : State}
    (h : exec i s = .next u) : collect f (i :: is) s = f i s ++ collect f is u := by
  simp only [collect, h]

/-! ### Engine(ch) takes the head of `txq[ch]`, or has no step -/

/-- The `requires` of ENGINE_TAKE as R160 and R169 word it. -/
theorem State.takeEnabled_iff {s : State} {ch : Nat} :
    s.takeEnabled ch = true ↔
      ∃ r w q, s.row ch = some r ∧ r.txq = w :: q ∧ mayOweMore s.cfg r.owed = true := by
  unfold State.takeEnabled
  cases s.row ch with
  | none => simp
  | some r => cases hq : r.txq <;> simp [hq]

theorem State.headIs_outbound {s : State} {ch : Nat} {r : Channel} {w w' : Word} {q : List Word}
    (hr : s.row ch = some r) (hq : r.txq = w :: q) : s.headIs .outbound ch w' = true ↔ w = w' := by
  simp [State.headIs, State.headWord, hr, hq]

/-- An enabled word instruction of the engine takes the word at the head. -/
theorem State.consumeCommand_of_enabled {s : State} {ch : Nat} {w : Word} (ht : s.takeEnabled ch = true)
    (hw : s.headIs .outbound ch w = true) :
    ∃ r q, s.row ch = some r ∧ r.txq = w :: q ∧ s.consumeCommand ch w = .next (s.takeWord ch r w q) := by
  obtain ⟨r, w', q, hr, hq, hm⟩ := State.takeEnabled_iff.mp ht
  obtain rfl := (State.headIs_outbound hr hq).mp hw
  exact ⟨r, q, hr, hq, by simp [State.consumeCommand, hr, hq, qPop, hm]⟩

/-- A word instruction of the engine that is not enabled has no step. -/
theorem State.consumeCommand_of_not_enabled {s t : State} {ch : Nat} {w : Word}
    (he : ¬ (s.takeEnabled ch = true ∧ s.headIs .outbound ch w = true)) (h : s.consumeCommand ch w = .next t) :
    t = s := by
  rcases State.consumeCommand_next h with ht | ⟨r, q, hr, hq, hm, -⟩
  · exact ht
  · exact absurd ⟨State.takeEnabled_iff.mpr ⟨r, w, q, hr, hq, hm⟩, (State.headIs_outbound hr hq).mpr rfl⟩ he

/-- An enabled operation that takes a command word takes the oldest one and returns it (R160, log 9). -/
theorem exec_takesCommand_of_enabled {s : State} {i : Instr} {ch : Nat} (hi : takesCommand i = some ch)
    (he : s.enabled i = true) :
    ∃ r w q, s.row ch = some r ∧ r.txq = w :: q ∧ exec i s = .next (s.takeWord ch r w q) := by
  cases i with
  | engineTake ch' =>
    cases hi
    obtain ⟨r, w, q, hr, hq, hm⟩ := State.takeEnabled_iff.mp he
    exact ⟨r, w, q, hr, hq, by simp [exec, execEngineTake, hr, hq, qPop, hm]⟩
  | cmdTx ch' d st sp n =>
    cases hi
    obtain ⟨ht, hw⟩ := Bool.and_eq_true_iff.mp he
    obtain ⟨r, q, hr, hq, hx⟩ := State.consumeCommand_of_enabled ht hw
    exact ⟨r, _, q, hr, hq, hx⟩
  | cmdRx ch' d st sp n =>
    cases hi
    obtain ⟨ht, hw⟩ := Bool.and_eq_true_iff.mp he
    obtain ⟨r, q, hr, hq, hx⟩ := State.consumeCommand_of_enabled ht hw
    exact ⟨r, _, q, hr, hq, hx⟩
  | _ => cases hi

/-- An operation that takes a command word has no step when it is not enabled (R160, R169). -/
theorem exec_takesCommand_of_not_enabled {s t : State} {i : Instr} {ch : Nat} (hi : takesCommand i = some ch)
    (he : ¬ s.enabled i = true) (h : exec i s = .next t) : t = s := by
  cases i with
  | engineTake ch' =>
    rcases execEngineTake_next h with ht | ⟨r, w, q, hr, hq, hm, -⟩
    · exact ht
    · exact absurd (State.takeEnabled_iff.mpr ⟨r, w, q, hr, hq, hm⟩) he
  | cmdTx ch' d st sp n =>
    exact State.consumeCommand_of_not_enabled (fun e => he (Bool.and_eq_true_iff.mpr e)) h
  | cmdRx ch' d st sp n =>
    exact State.consumeCommand_of_not_enabled (fun e => he (Bool.and_eq_true_iff.mpr e)) h
  | _ => cases hi

/-! ### What an operation observes of `txq[ch]` -/

/-- `takenFrom` in terms of `takesCommand`: the operations that take a word from `txq[ch]` are treated alike. -/
theorem takenFrom_eq (ch : Nat) (i : Instr) (s : State) :
    takenFrom ch i s = if takesCommand i = some ch ∧ s.enabled i = true then returnedWord i s else [] := by
  cases i <;> simp [takenFrom, takesCommand]

theorem takenFrom_eq_nil {ch : Nat} {i : Instr} (s : State) (hi : takesCommand i ≠ some ch) :
    takenFrom ch i s = [] := by
  simp [takenFrom_eq, hi]

theorem submittedTo_eq_nil {ch : Nat} {i : Instr} (s : State) (hi : ∀ d f, i ≠ .submit ch d f) :
    submittedTo ch i s = [] := by
  cases i with
  | submit ch' d f => exact if_neg fun h => hi d f (by rw [h.1])
  | _ => rfl

/-- An enabled SUBMIT of a valid flag set shows the word it assembles, and one that is not enabled shows nothing. -/
theorem submittedTo_submit (s : State) (ch : Nat) (d : Byte) {f : FlagSet} (hv : f.valid = true) :
    submittedTo ch (.submit ch d f) s =
      if s.enabled (.submit ch d f) = true then [commandWord s.cfg d f.start f.stop f.reply f.nack] else [] := by
  simp [submittedTo, encodeOperands, hv]

/-! ### One operation -/

/-- R14: `txq[ch]` is written only by a SUBMIT to `ch` and by the operations that take a word from it. -/
theorem RowWrite.txq {s : State} {ch : Nat} {r r' : Channel} {i : Instr} (h : RowWrite s ch r i r')
    (hs : ∀ d f, i ≠ .submit ch d f) (ht : takesCommand i ≠ some ch) : r'.txq = r.txq := by
  cases h with
  | submit d f => exact absurd rfl (hs d f)
  | take i w q takes => exact absurd takes ht
  | set c v => cases c <;> rfl
  | _ => rfl

/-- A SUBMIT appends to `txq[ch]` what it shows: its word if it has a step, else nothing (R120, R124). -/
theorem exec_submit_txq {s t : State} {ch : Nat} {d : Byte} {f : FlagSet} {r : Channel}
    (h : exec (.submit ch d f) s = .next t) (hr : s.row ch = some r) :
    ∃ r', t.row ch = some r' ∧ r'.txq = r.txq ++ submittedTo ch (.submit ch d f) s := by
  rcases execSubmit_next h with ⟨ha, rfl⟩ | ⟨ha, r₀, hr₀, hv, hcase⟩
  · exact ⟨r, hr, by simp [submittedTo, State.enabled, ha]⟩
  obtain rfl : r₀ = r := Option.some.inj (hr₀.symm.trans hr)
  rw [submittedTo_submit s ch d hv]
  have henabled : s.enabled (.submit ch d f) = txReady s.cfg r₀ := by
    simp [State.enabled, State.submitEnabled, ha, hr, hv]
  rcases hcase with ⟨hx, rfl⟩ | ⟨hx, rfl⟩
  · exact ⟨_, List.getElem?_set_self (State.lt_of_row hr), by simp [henabled, hx, qPush]⟩
  · exact ⟨r₀, hr, by simp [henabled, hx]⟩

/-- A taking operation removes from the front of `txq[ch]` what it shows: the word it returns if it has a step, else
nothing (R160, R169). -/
theorem exec_takesCommand_txq {s t : State} {i : Instr} {ch : Nat} {r : Channel} (hi : takesCommand i = some ch)
    (h : exec i s = .next t) (hr : s.row ch = some r) :
    ∃ r', t.row ch = some r' ∧ r.txq = takenFrom ch i s ++ r'.txq := by
  rw [takenFrom_eq]
  by_cases he : s.enabled i = true
  · obtain ⟨r₀, w, q, hr₀, hq, hx⟩ := exec_takesCommand_of_enabled hi he
    obtain rfl : r₀ = r := Option.some.inj (hr₀.symm.trans hr)
    obtain rfl : s.takeWord ch r₀ w q = t := Host.Outcome.next.inj (hx.symm.trans h)
    exact ⟨_, List.getElem?_set_self (State.lt_of_row hr), by simp [hi, he, returnedWord, hx, hq]⟩
  · obtain rfl := exec_takesCommand_of_not_enabled hi he h
    exact ⟨r, hr, by simp [he]⟩

/-- One operation, whoever performs it: what was in `txq[ch]` and what it submits there is what it takes from there and
what is left. -/
theorem exec_txq {s t : State} {i : Instr} {ch : Nat} {r : Channel} (h : exec i s = .next t)
    (hr : s.row ch = some r) :
    ∃ r', t.row ch = some r' ∧ r.txq ++ submittedTo ch i s = takenFrom ch i s ++ r'.txq := by
  by_cases hs : ∃ d f, i = .submit ch d f
  · obtain ⟨d, f, rfl⟩ := hs
    obtain ⟨r', hr', hq⟩ := exec_submit_txq h hr
    exact ⟨r', hr', by rw [hq, takenFrom_eq_nil s (by simp [takesCommand]), List.nil_append]⟩
  push Not at hs
  rw [submittedTo_eq_nil s hs, List.append_nil]
  by_cases ht : takesCommand i = some ch
  · exact exec_takesCommand_txq ht h hr
  rw [takenFrom_eq_nil s ht]
  obtain ⟨r', hr', rfl | hw⟩ := exec_row h hr
  · exact ⟨r', hr', rfl⟩
  · exact ⟨r', hr', (hw.txq hs ht).symm⟩

/-- Settles O49: by induction on the run, each operation by `exec_txq`. -/
theorem commandWordsAreDeliveredInOrder : Obligations.CommandWordsAreDeliveredInOrder := by
  intro ops
  induction ops with
  | nil =>
    intro s t ch r hrun hr
    obtain rfl : s = t := Option.some.inj hrun
    exact ⟨r, hr, List.append_nil _⟩
  | cons i is ih =>
    intro s t ch r hrun hr
    obtain ⟨u, hx, hrest⟩ := runOps_cons_eq_some.mp hrun
    obtain ⟨r₁, hr₁, hstep⟩ := exec_txq hx hr
    obtain ⟨r', hr', htail⟩ := ih u t ch r₁ hrest hr₁
    refine ⟨r', hr', ?_⟩
    calc r.txq ++ collect (submittedTo ch) (i :: is) s
        = (r.txq ++ submittedTo ch i s) ++ collect (submittedTo ch) is u := by
          rw [collect_cons _ hx, List.append_assoc]
      _ = takenFrom ch i s ++ (r₁.txq ++ collect (submittedTo ch) is u) := by
          rw [hstep, List.append_assoc]
      _ = collect (takenFrom ch) (i :: is) s ++ r'.txq := by
          rw [htail, collect_cons _ hx, List.append_assoc]

end Sys2Proof.Machine

/-! SUPPORT. The encoding bit by bit (30_encoding.md R67, R68): the bits of an assembled command word, the bits of a data field read, the answers of ENCODE and DECODE in every state, and the address bytes as numbers. Settles O1 and O10. -/

namespace Sys2Proof.Machine

/-! ### The fields of a word, bit by bit -/

/-- The data byte stands in bits 31:24, and `dataField` sets no bit below (R67). -/
theorem getLsbD_dataField (d : Byte) {i : Nat} (hi : i < 32) :
    (dataField d).getLsbD i = (decide (24 ≤ i) && d.getLsbD (i - 24)) := by
  by_cases h : i < 24
  · simp [dataField, dataLsb, h, Nat.not_le.mpr h]
  · simp [dataField, dataLsb, h, hi, Nat.not_lt.mp h]

/-- A command word has the data in bits 31:24, and each flag exactly at its position below (R67, table T1). -/
theorem getLsbD_commandWord (c : Config) (d : Byte) (start stop reply nack : Bool) {i : Nat} (hi : i < 32) :
    (commandWord c d start stop reply nack).getLsbD i =
      if 24 ≤ i then d.getLsbD (i - 24)
      else (start && decide (i = c.cmdStartBit.val)) || (stop && decide (i = c.cmdStopBit.val)) ||
        (reply && decide (i = c.cmdReplyBit.val)) || (nack && decide (i = c.cmdNackBit.val)) := by
  simp only [commandWord, BitVec.getLsbD_or, getLsbD_dataField d hi, getLsbD_bitAt, hi]
  split
  case isTrue h =>
    have no_flag (p : Fin 24) : i ≠ p.val := by omega
    simp [h, no_flag]
  case isFalse h => simp [h]

/-- The data field read is bits 31:24 of the word (R61, R66). -/
theorem getLsbD_wordData (w : Word) {i : Nat} (hi : i < 8) : (wordData w).getLsbD i = w.getLsbD (24 + i) := by
  simp [wordData, dataLsb, hi]

/-! ### ENCODE and DECODE in every state -/

/-- ENCODE of a valid flag set answers the command word in every state (R90). -/
theorem exec_encode (s : State) (d : Byte) {f : FlagSet} (hv : f.valid = true) :
    exec (.encode d f) s = .next (s.returning (.word (commandWord s.cfg d f.start f.stop f.reply f.nack))) := by
  simp [exec, execEncode, encodeOperands_eq_some.mpr ⟨hv, rfl⟩]

/-- DECODE answers the data field and the acknowledge of every word, in every state (R93). -/
theorem exec_decode (s : State) (w : Word) :
    exec (.decode w) s = .next (s.returning (.decoded (wordData w) (responseAck s.cfg w))) := rfl

/-- Settles O1: the answers of the codec, and the bits of the fields it assembles and reads. -/
theorem codecAssemblesAndExtractsFields : Obligations.CodecAssemblesAndExtractsFields :=
  ⟨fun s d _ hv => ⟨_, exec_encode s d hv, fun _ hi => getLsbD_commandWord s.cfg d _ _ _ _ hi⟩,
    fun s w => ⟨_, _, exec_decode s w, fun _ hi => getLsbD_wordData w hi, rfl⟩⟩

/-! ### The address bytes -/

/-- The write address byte is twice the address: no bit of the seven is shifted out. -/
theorem toNat_addrW (a : BitVec 7) : (addrW a).toNat = a.toNat * 2 := by
  have ha : a.toNat < 128 := a.isLt
  have h8 : a.toNat * 2 < 256 := by omega
  simp [addrW, Nat.shiftLeft_eq, Nat.mod_eq_of_lt h8]

/-- The read address byte is one more than the write byte, whose lowest bit is clear. -/
theorem toNat_addrR (a : BitVec 7) : (addrR a).toNat = (addrW a).toNat + 1 := by
  have hor : 2 * a.toNat + 1 = 2 * a.toNat ||| 1 := Nat.two_pow_add_eq_or_of_lt (i := 1) (by decide) a.toNat
  calc (addrR a).toNat = (addrW a).toNat ||| 1 := BitVec.toNat_or (addrW a) 1#8
    _ = (addrW a).toNat + 1 := by rw [toNat_addrW, Nat.mul_comm, hor]

/-- Settles O10: the write byte is the doubled address, the read byte the next number. -/
theorem addressBytes : Obligations.AddressBytes := fun a =>
  ⟨toNat_addrW a, by rw [toNat_addrR, toNat_addrW]⟩

end Sys2Proof.Machine

/-! SUPPORT. The codec's laws (40_codec.md R94, R96): the data field read from an assembled word, and the acknowledge as the complement of the status bit, for DECODE and for RECEIVE of the head word. Settles O4 and O6. -/

namespace Sys2Proof.Machine

/-- DECODE reads its data where ENCODE places it, bits 31:24, and no flag stands there (R96, D6). -/
@[simp] theorem wordData_commandWord (c : Config) (d : Byte) (start stop reply nack : Bool) :
    wordData (commandWord c d start stop reply nack) = d := by
  refine BitVec.eq_of_getLsbD_eq fun i hi => ?_
  rw [getLsbD_wordData _ hi, getLsbD_commandWord c d start stop reply nack (by omega),
    if_pos (Nat.le_add_right 24 i), Nat.add_sub_cancel_left]

/-- Negative logic: the byte was acknowledged exactly when the status bit is 0 (R94). -/
theorem responseAck_eq_true_iff {c : Config} {w : Word} :
    responseAck c w = true ↔ w.getLsbD c.rspNackBit.val = false := by
  simp [responseAck]

/-- RECEIVE of a channel with a response word waiting removes and decodes the oldest one (R121). -/
theorem exec_receive_of_rxq_eq_cons {s : State} {ch : Nat} {r : Channel} {w : Word} {q : List Word}
    (ha : s.hostAccepts (.receive ch) = true) (hr : s.row ch = some r) (hq : r.rxq = w :: q) :
    exec (.receive ch) s = .next (s.receiveWord ch r w q) := by
  have hx : exec (.receive ch) s = _ := State.onChannel_row ha hr
  rw [hx, qPop_eq_some.mpr hq]

/-- Settles O4: DECODE answers the data field, in which ENCODE put the byte, and the complement of the status bit. -/
theorem codecRoundTrips : Obligations.CodecRoundTrips := by
  refine ⟨fun s d f hv => ?_, fun s w => ⟨_, _, exec_decode s w, responseAck_eq_true_iff⟩⟩
  have hdecode := exec_decode (s.returning (.word (commandWord s.cfg d f.start f.stop f.reply f.nack)))
    (commandWord s.cfg d f.start f.stop f.reply f.nack)
  rw [wordData_commandWord] at hdecode
  exact ⟨_, _, exec_encode s d hv, hdecode⟩

/-- Settles O6: both operations answer `responseAck`, the complement of the status bit. -/
theorem statusBitIsNegativeLogic : Obligations.StatusBitIsNegativeLogic := fun s w =>
  ⟨⟨_, exec_decode s w⟩, fun _ _ _ hr hq ha => ⟨_, _, exec_receive_of_rxq_eq_cons ha hr hq, rfl⟩⟩

end Sys2Proof.Machine

/-! SUPPORT. Channel creation (41_transport.md R110, R112, R113): the state a CREATE_CHANNEL makes, the fatal call at capacity, and by induction the table a list of creations makes. Settles O11 and O12. -/

namespace Sys2Proof.Machine

/-! ### The state a creation makes -/

/-- What CREATE_CHANNEL answers below capacity: one row more, the next id returned (R110). -/
def State.withNewChannel (s : State) (p : Nat) (v : SpeedClass) : State :=
  { s with
    channels := s.channels ++ [newChannel s.cfg s.nChannels p v]
    result := .channelId s.nChannels }

@[simp] theorem State.withNewChannel_cfg (s : State) (p : Nat) (v : SpeedClass) :
    (s.withNewChannel p v).cfg = s.cfg := rfl
@[simp] theorem State.withNewChannel_channels (s : State) (p : Nat) (v : SpeedClass) :
    (s.withNewChannel p v).channels = s.channels ++ [newChannel s.cfg s.nChannels p v] := rfl
@[simp] theorem State.withNewChannel_fatal (s : State) (p : Nat) (v : SpeedClass) :
    (s.withNewChannel p v).fatal = s.fatal := rfl
@[simp] theorem State.withNewChannel_contexts (s : State) (p : Nat) (v : SpeedClass) :
    (s.withNewChannel p v).contexts = s.contexts := rfl

@[simp] theorem State.nChannels_withNewChannel (s : State) (p : Nat) (v : SpeedClass) :
    (s.withNewChannel p v).nChannels = s.nChannels + 1 := by
  simp [State.nChannels]

/-- The new row stands at the next id. -/
theorem State.row_withNewChannel_self (s : State) (p : Nat) (v : SpeedClass) :
    (s.withNewChannel p v).row s.nChannels = some (newChannel s.cfg s.nChannels p v) := by
  simp [State.row, State.nChannels]

/-- Existing channels are not touched (R110). -/
theorem State.row_withNewChannel_of_lt (s : State) (p : Nat) (v : SpeedClass) {ch : Nat} (h : ch < s.nChannels) :
    (s.withNewChannel p v).row ch = s.row ch :=
  List.getElem?_append_left h

/-- A new channel has both enables false, so it requests nothing (R110). -/
theorem requests_newChannel (c : Config) (id p : Nat) (v : SpeedClass) (k : IrqClass) :
    (newChannel c id p v).requests c k = false := by
  cases k <;> rfl

theorem State.irqReq_withNewChannel (s : State) (p : Nat) (v : SpeedClass) (id : IrqId) :
    (s.withNewChannel p v).irqReq id = s.irqReq id := by
  simp [State.irqReq, requests_newChannel]

theorem State.sameControl_withNewChannel (s : State) (p : Nat) (v : SpeedClass) :
    State.SameControl s (s.withNewChannel p v) := ⟨rfl, rfl, rfl, rfl⟩

/-! ### CREATE_CHANNEL below capacity and at it -/

theorem exec_createChannel_of_room {s : State} {p : Nat} {v : SpeedClass}
    (ha : s.hostAccepts (.createChannel p v) = true) (hroom : s.nChannels ≠ s.cfg.maxChannels) :
    exec (.createChannel p v) s = .next (s.withNewChannel p v) := by
  simp [exec, execCreateChannel, ha, hroom, State.withNewChannel]

/-- The first fatal error sets the latch and writes nothing else (R213). -/
theorem State.raiseFatal_of_none {s : State} (hf : s.fatal = none) (e : FatalReason) :
    s.raiseFatal e = { s with fatal := some e } := by
  simp [State.raiseFatal, hf]

theorem exec_createChannel_at_capacity {s : State} {p : Nat} {v : SpeedClass}
    (ha : s.hostAccepts (.createChannel p v) = true) (hfull : s.nChannels = s.cfg.maxChannels) :
    exec (.createChannel p v) s = .next { s with fatal := some .capacityExceeded } := by
  rw [← State.raiseFatal_of_none (State.hostAccepts_iff.mp ha).1]
  simp [exec, execCreateChannel, ha, hfull]

/-- Settles O11: below capacity by the laws of `withNewChannel`, and at capacity the latch alone is set. -/
theorem createChannelAllocates : Obligations.CreateChannelAllocates := by
  intro s p v hvalid ha
  refine ⟨fun hroom => ?_, exec_createChannel_at_capacity ha⟩
  obtain ⟨-, -, -, -, hdepth, -⟩ := hvalid
  have hready : txReady s.cfg (newChannel s.cfg s.nChannels p v) = true :=
    txReady_iff.mpr (Nat.lt_of_lt_of_le (Nat.succ_pos 3) hdepth)
  exact ⟨_, _, exec_createChannel_of_room ha hroom, rfl, State.nChannels_withNewChannel s p v,
    State.row_withNewChannel_self s p v, rfl, rfl, rfl, rfl, rfl, rfl, hready, rfl,
    fun _ hlt => State.row_withNewChannel_of_lt s p v hlt, State.irqReq_withNewChannel s p v,
    State.sameControl_withNewChannel s p v, rfl⟩

/-! ### A list of creations -/

/-- The rows a list of creations makes from id `n` on: the ids count up, in the order of the calls (R112). -/
def newChannels (c : Config) (n : Nat) (reqs : List (Nat × SpeedClass)) : List Channel :=
  reqs.mapIdx fun i q => newChannel c (n + i) q.1 q.2

theorem newChannels_cons (c : Config) (n : Nat) (q : Nat × SpeedClass) (reqs : List (Nat × SpeedClass)) :
    newChannels c n (q :: reqs) = newChannel c n q.1 q.2 :: newChannels c (n + 1) reqs := by
  simp [newChannels, Nat.add_assoc, Nat.add_comm 1]

@[simp] theorem length_newChannels (c : Config) (n : Nat) (reqs : List (Nat × SpeedClass)) :
    (newChannels c n reqs).length = reqs.length :=
  List.length_mapIdx

theorem getElem?_newChannels (c : Config) (n : Nat) {reqs : List (Nat × SpeedClass)} {i p : Nat} {v : SpeedClass}
    (h : reqs[i]? = some (p, v)) : (newChannels c n reqs)[i]? = some (newChannel c (n + i) p v) := by
  simp [newChannels, h]

/-- A host that waits for nothing, with no fatal error, can perform anything. -/
theorem State.hostAccepts_of_idle {s : State} (hf : s.fatal = none) (hh : s.contexts.topHeld = none) (i : Instr) :
    s.hostAccepts i = true :=
  State.hostAccepts_iff.mpr ⟨hf, .inl hh⟩

/-- Creations that stay within capacity all complete, and append their rows in the order of the calls. -/
theorem runOps_createChannels {reqs : List (Nat × SpeedClass)} {s : State} (hf : s.fatal = none)
    (hh : s.contexts.topHeld = none) (hcap : s.nChannels + reqs.length ≤ s.cfg.maxChannels) :
    ∃ t, runOps (reqs.map fun q => .createChannel q.1 q.2) s = some t ∧ t.cfg = s.cfg ∧ t.fatal = none ∧
      t.contexts = s.contexts ∧ t.channels = s.channels ++ newChannels s.cfg s.nChannels reqs := by
  induction reqs generalizing s with
  | nil => exact ⟨s, rfl, rfl, hf, rfl, (List.append_nil _).symm⟩
  | cons q reqs ih =>
    have hcap' : s.nChannels + 1 + reqs.length ≤ s.cfg.maxChannels := by
      simpa [Nat.add_assoc, Nat.add_comm 1] using hcap
    have hx : exec (.createChannel q.1 q.2) s = .next (s.withNewChannel q.1 q.2) :=
      exec_createChannel_of_room (State.hostAccepts_of_idle hf hh _) (by omega)
    obtain ⟨t, hrun, hcfg, hfatal, hctx, hchans⟩ := ih (s := s.withNewChannel q.1 q.2) hf hh (by simpa using hcap')
    exact ⟨t, runOps_cons_eq_some.mpr ⟨_, hx, hrun⟩, hcfg, hfatal, hctx, by simp [hchans, newChannels_cons]⟩

/-! ### No operation destroys a channel -/

theorem TableChange.length_le {s : State} {i : Instr} {cs : List Channel} (h : TableChange s i cs) :
    s.channels.length ≤ cs.length := by
  cases h with
  | same => exact Nat.le_refl _
  | created p v op room => simp
  | written row write => simp

/-- There is no operation that destroys a channel (R112). -/
theorem exec_nChannels_le {s t : State} {i : Instr} (h : exec i s = .next t) : s.nChannels ≤ t.nChannels :=
  (exec_table h).2.length_le

/-- Settles O12: the creations from reset append their rows in order, and the next call has room or is at capacity. -/
theorem allocationIsSequential : Obligations.AllocationIsSequential := by
  refine ⟨fun c reqs hlen => ?_, fun s t i h => exec_nChannels_le h⟩
  obtain ⟨t, hrun, hcfg, hfatal, hctx, hchans⟩ :=
    runOps_createChannels (reqs := reqs) (s := State.resetOf c) rfl rfl ((Nat.zero_add _).symm ▸ hlen)
  replace hcfg : t.cfg = c := hcfg
  replace hchans : t.channels = newChannels c 0 reqs := hchans
  have hn : t.nChannels = reqs.length := by simp [State.nChannels, hchans]
  have haccepts : ∀ i, t.hostAccepts i = true := State.hostAccepts_of_idle hfatal (by rw [hctx]; rfl)
  refine ⟨t, hrun, hfatal, hn, fun i p v hi => ⟨newChannel c i p v, ?_, rfl⟩, fun hlt p v => ?_, fun heq p v => ?_⟩
  · simpa [State.row, hchans] using getElem?_newChannels c 0 hi
  · exact ⟨_, exec_createChannel_of_room (haccepts _) (by rw [hn, hcfg]; exact Nat.ne_of_lt hlt),
      congrArg OpResult.channelId hn⟩
  · exact ⟨_, exec_createChannel_at_capacity (haccepts _) (by rw [hn, hcfg]; exact heq), rfl⟩

end Sys2Proof.Machine

/-! SUPPORT. How an operation changes the host's context stack (41_transport.md R122, R124; 60_exceptions.md R230). Settles O17. -/

namespace Sys2Proof.Machine

/-- What an operation may make of the context stack: the same, the wait of the top context ended by the operation that
completes it, a wait begun by one of the two operations that can wait, or a context entered or left (R230, R124). -/
inductive ContextChange (s : State) : Instr → ContextStack → Prop
  | same (i : Instr) : ContextChange s i s.contexts
  | released (i : Instr) (completes : (heldOpOf i).isSome = true) : ContextChange s i (s.contexts.setTopHeld none)
  | submitHeld (ch : Nat) (d : Byte) (f : FlagSet) (r : Channel) (row : s.row ch = some r) (valid : f.valid = true)
    (full : s.cfg.txqDepth ≤ r.txq.length) :
    ContextChange s (.submit ch d f) (s.contexts.setTopHeld (some (.submit ch d f)))
  | receiveHeld (ch : Nat) (r : Channel) (row : s.row ch = some r) (empty : r.rxq = []) :
    ContextChange s (.receive ch) (s.contexts.setTopHeld (some (.receive ch)))
  | entered (b : Nat) (c : IrqClass) : ContextChange s (.irqEnter b c) (s.contexts.push ⟨b, c⟩)
  | returned (b : Nat) (c : IrqClass) : ContextChange s (.irqReturn b c) s.contexts.pop

theorem txReady_eq_false_iff {c : Config} {r : Channel} : txReady c r = false ↔ c.txqDepth ≤ r.txq.length := by
  simp [txReady]

/-- A bind, whichever way it ends, is no change of the contexts. -/
theorem State.bindHandler_contexts {s t : State} {ch : Nat} {r : Channel} {c : IrqClass} {x : HandlerRef}
    (h : s.bindHandler ch r c x = .next t) : t.contexts = s.contexts := by
  rcases State.bindHandler_next h with ⟨-, rfl⟩ | ⟨-, -, rfl⟩ | ⟨-, -, rfl⟩ <;> rfl

/-- The engine's consumption of a command word is no change of the host's contexts. -/
theorem State.consumeCommand_contexts {s t : State} {ch : Nat} {w : Word} (h : s.consumeCommand ch w = .next t) :
    t.contexts = s.contexts := by
  rcases State.consumeCommand_next h with rfl | ⟨r, q, -, -, -, rfl⟩ <;> rfl

/-- An operation changes the context stack in one of the ways listed. -/
theorem exec_contexts {s t : State} {i : Instr} (h : exec i s = .next t) : ContextChange s i t.contexts := by
  cases i with
  | encode d f =>
    obtain ⟨-, rfl⟩ := execEncode_next h
    exact .same _
  | decode w =>
    obtain rfl := execDecode_next h
    exact .same _
  | createChannel p v =>
    rcases execCreateChannel_next h with ⟨-, rfl⟩ | ⟨-, -, rfl⟩ | ⟨-, -, rfl⟩ <;> exact .same _
  | describeChannels =>
    rcases execDescribeChannels_next h with rfl | ⟨-, rfl⟩ <;> exact .same _
  | submit ch d f =>
    rcases execSubmit_next h with ⟨-, rfl⟩ | ⟨-, r, hr, hv, ⟨-, rfl⟩ | ⟨hx, rfl⟩⟩
    · exact .same _
    · exact .released _ rfl
    · exact .submitHeld ch d f r hr hv (txReady_eq_false_iff.mp hx)
  | receive ch =>
    rcases execReceive_next h with ⟨-, rfl⟩ | ⟨-, r, hr, ⟨hq, rfl⟩ | ⟨w, q, -, rfl⟩⟩
    · exact .same _
    · exact .receiveHeld ch r hr hq
    · exact .released _ rfl
  | bindOutboundHandler ch x =>
    rcases execBindOutboundHandler_next h with ⟨-, rfl⟩ | ⟨-, r, -, hb⟩
    · exact .same _
    · exact State.bindHandler_contexts hb ▸ .same _
  | bindInboundHandler ch x =>
    rcases execBindInboundHandler_next h with ⟨-, rfl⟩ | ⟨-, r, -, hb⟩
    · exact .same _
    · exact State.bindHandler_contexts hb ▸ .same _
  | setOutboundInterrupt ch v =>
    rcases execSetOutboundInterrupt_next h with ⟨-, rfl⟩ | ⟨-, r, -, rfl⟩ <;> exact .same _
  | setInboundInterrupt ch v =>
    rcases execSetInboundInterrupt_next h with ⟨-, rfl⟩ | ⟨-, r, -, rfl⟩ <;> exact .same _
  | engineTake ch =>
    rcases execEngineTake_next h with rfl | ⟨r, w, q, -, -, -, rfl⟩ <;> exact .same _
  | engineGive ch w =>
    rcases execEngineGive_next h with rfl | ⟨r, -, -, -, rfl⟩ <;> exact .same _
  | irqEnter b c =>
    rcases execIrqEnter_next h with rfl | ⟨x, -, -, rfl⟩
    · exact .same _
    · exact .entered b c
  | irqReturn b c =>
    rcases execIrqReturn_next h with rfl | ⟨-, rfl⟩
    · exact .same _
    · exact .returned b c
  | cmdTx ch d st sp n => exact State.consumeCommand_contexts h ▸ .same _
  | cmdRx ch d st sp n => exact State.consumeCommand_contexts h ▸ .same _
  | rsp ch d n g =>
    rcases execRsp_next h with rfl | ⟨-, r, q, -, -, rfl⟩
    · exact .same _
    · exact .released _ rfl

/-- Settles O17: of the ways a host operation changes the contexts, only the two holds leave a wait that was not there. -/
theorem onlySubmitAndReceiveWait : Obligations.OnlySubmitAndReceiveWait := by
  intro s t i hhost hidle h hwaits
  have hchange := exec_contexts h
  generalize t.contexts = k at hchange hwaits ⊢
  cases hchange with
  | same => exact absurd hidle hwaits
  | released => exact absurd (ContextStack.topHeld_setTopHeld _ _) hwaits
  | submitHeld ch d f r row valid full =>
    exact .inl ⟨ch, d, f, r, rfl, row, full, ContextStack.topHeld_setTopHeld _ _⟩
  | receiveHeld ch r row empty => exact .inr ⟨ch, r, rfl, row, empty, ContextStack.topHeld_setTopHeld _ _⟩
  | entered b c => cases hhost
  | returned b c => cases hhost

end Sys2Proof.Machine

/-! SUPPORT. One written row of the channel table: the frame of the write, and the interrupt requests after it (10_state.md R22, R24). -/

namespace Sys2Proof.Machine

theorem State.row_setRow_self {s : State} {ch : Nat} (hlt : ch < s.nChannels) (r : Channel) :
    (s.setRow ch r).row ch = some r := by
  rw [State.row_setRow, if_pos ⟨rfl, hlt⟩]

/-- An operation that sets one row of the table creates no channel and leaves every other row (R24). -/
theorem State.onlyRow_of_channels_eq_set {s t : State} {ch : Nat} {r : Channel}
    (h : t.channels = s.channels.set ch r) : State.OnlyRow s t ch where
  count := by rw [State.nChannels, h, List.length_set, State.nChannels]
  others := fun ch' hne => by rw [State.row, h, List.getElem?_set_ne hne.symm, State.row]

theorem State.row_setRow_of_ne (s : State) {ch ch' : Nat} (hne : ch' ≠ ch) (r : Channel) :
    (s.setRow ch r).row ch' = s.row ch' :=
  (State.onlyRow_of_channels_eq_set rfl).others ch' hne

/-- Writing a row with what it holds is no change. -/
theorem State.setRow_of_row {s : State} {ch : Nat} {r : Channel} (hr : s.row ch = some r) : s.setRow ch r = s := by
  obtain ⟨hlt, rfl⟩ := List.getElem?_eq_some_iff.mp hr
  simp [State.setRow]

/-- The request after a row is written: the written row raises it, or another channel of the block does (R22). -/
theorem State.irqReq_setRow_iff {s : State} {ch : Nat} {r : Channel} {id : IrqId} (hlt : ch < s.nChannels) :
    (s.setRow ch r).irqReq id = true ↔
      (r.info.block = id.block ∧ r.requests s.cfg id.cls = true) ∨
      ∃ ch' r', ch' ≠ ch ∧ s.row ch' = some r' ∧ r'.info.block = id.block ∧ r'.requests s.cfg id.cls = true := by
  simp only [State.irqReq_iff, State.setRow_cfg, Channel.requests, Bool.and_eq_true]
  constructor
  · rintro ⟨ch', r', hr', hreq⟩
    by_cases hc : ch' = ch
    · subst hc
      obtain rfl : r = r' := Option.some.inj ((State.row_setRow_self hlt r).symm.trans hr')
      exact .inl hreq
    · exact .inr ⟨ch', r', hc, (State.row_setRow_of_ne s hc r).symm.trans hr', hreq⟩
  · rintro (hreq | ⟨ch', r', hc, hr', hreq⟩)
    · exact ⟨ch, r, State.row_setRow_self hlt r, hreq⟩
    · exact ⟨ch', r', (State.row_setRow_of_ne s hc r).trans hr', hreq⟩

/-- A write that keeps the block of the row and what the row requests changes no request. -/
theorem State.irqReq_setRow_of_requests {s : State} {ch : Nat} {r r' : Channel} (hr : s.row ch = some r)
    (hb : r'.info.block = r.info.block) (hreq : ∀ c, r'.requests s.cfg c = r.requests s.cfg c) (id : IrqId) :
    (s.setRow ch r').irqReq id = s.irqReq id := by
  have hlt := State.lt_of_row hr
  rw [Bool.eq_iff_iff, State.irqReq_setRow_iff hlt, hb, hreq, ← State.irqReq_setRow_iff hlt, State.setRow_of_row hr]

/-- A host operation on a channel that does not exist is refused (R217). -/
theorem State.onChannel_of_le {s : State} {i : Instr} {ch : Nat} {k : Channel → Answer}
    (ha : s.hostAccepts i = true) (hle : s.nChannels ≤ ch) : s.onChannel i ch k = .refused .invalidChannel := by
  simp [State.onChannel, ha, State.row_eq_none.mpr hle]

end Sys2Proof.Machine

/-! SUPPORT. Binding a handler (42_interrupt_control.md R140, R141; 60_exceptions.md R211, R212): the state a completed bind makes, and the three answers of a bind. Settles O20. -/

namespace Sys2Proof.Machine

/-! ### The state a bind makes -/

/-- What a bind of a free slot answers: the slot of the channel's block and class filled, the interrupt id recorded on
the channel (R140, R150). -/
def State.withBinding (s : State) (ch : Nat) (r : Channel) (c : IrqClass) (h : HandlerRef) : State :=
  ((s.bindSlot ⟨r.info.block, c⟩ h).setRow ch
    { r with info := r.info.withIrqId c (irqId r.info.block c) }).returning .nothing

theorem State.handler_withBinding_self {s : State} {r : Channel} {c : IrqClass}
    (hb : r.info.block ∈ s.irqBlocks.map fun b => b.block) (ch : Nat) (h : HandlerRef) :
    (s.withBinding ch r c h).handler ⟨r.info.block, c⟩ = some h := by
  obtain ⟨x, hx⟩ := State.exists_slot (id := ⟨r.info.block, c⟩) hb
  calc (s.withBinding ch r c h).handler ⟨r.info.block, c⟩
    _ = (s.bindSlot ⟨r.info.block, c⟩ h).handler ⟨r.info.block, c⟩ := State.handler_congr rfl _
    _ = some h := by rw [State.handler_bindSlot, if_pos rfl, hx, Option.map_some]

theorem State.handler_withBinding_of_ne {s : State} {ch : Nat} {r : Channel} {c : IrqClass} {h : HandlerRef}
    {id : IrqId} (hne : id ≠ ⟨r.info.block, c⟩) : (s.withBinding ch r c h).handler id = s.handler id :=
  calc (s.withBinding ch r c h).handler id
    _ = (s.bindSlot ⟨r.info.block, c⟩ h).handler id := State.handler_congr rfl _
    _ = s.handler id := by rw [State.handler_bindSlot, if_neg hne]

theorem State.inService_withBinding (s : State) (ch : Nat) (r : Channel) (c : IrqClass) (h : HandlerRef)
    (id : IrqId) : (s.withBinding ch r c h).inService id = s.inService id :=
  calc (s.withBinding ch r c h).inService id
    _ = (s.bindSlot ⟨r.info.block, c⟩ h).inService id := State.inService_congr rfl _
    _ = s.inService id := State.inService_bindSlot s _ id h

/-- What a channel requests does not depend on its record. -/
theorem Channel.requests_with_info (r : Channel) (info : ChannelRecord) (c : Config) (k : IrqClass) :
    Channel.requests c { r with info := info } k = r.requests c k := by
  cases k <;> rfl

/-- A bind changes no request: the interrupt id it records is no part of R22. -/
theorem State.irqReq_withBinding {s : State} {ch : Nat} {r : Channel} (hr : s.row ch = some r) (c : IrqClass)
    (h : HandlerRef) (id : IrqId) : (s.withBinding ch r c h).irqReq id = s.irqReq id :=
  State.irqReq_setRow_of_requests hr (ChannelRecord.withIrqId_block _ _ _)
    (Channel.requests_with_info r _ s.cfg) id

theorem State.row_withBinding_self {s : State} {ch : Nat} {r : Channel} (hr : s.row ch = some r) (c : IrqClass)
    (h : HandlerRef) : (s.withBinding ch r c h).row ch =
      some { r with info := r.info.withIrqId c (irqId r.info.block c) } :=
  State.row_setRow_self (State.lt_of_row hr) _

theorem State.onlyRow_withBinding (s : State) (ch : Nat) (r : Channel) (c : IrqClass) (h : HandlerRef) :
    State.OnlyRow s (s.withBinding ch r c h) ch :=
  State.onlyRow_of_channels_eq_set rfl

/-! ### The answers of a bind -/

/-- The two binds are one operation, told apart by the class (R140, R141). -/
theorem exec_bindOp (c : IrqClass) (ch : Nat) (h : HandlerRef) (s : State) :
    exec (bindOp c ch h) s = s.onChannel (bindOp c ch h) ch fun r => s.bindHandler ch r c h := by
  cases c <;> rfl

theorem State.bindHandler_of_unsupported {s : State} {r : Channel} (hf : s.fatal = none)
    (hb : r.info.block ∉ s.cfg.irqBlocks) (ch : Nat) (c : IrqClass) (h : HandlerRef) :
    s.bindHandler ch r c h = .next { s with fatal := some .unsupportedBlock } := by
  rw [State.bindHandler, if_neg hb, State.raiseFatal_of_none hf]

theorem State.bindHandler_of_bound {s : State} {r : Channel} {c : IrqClass} {h' : HandlerRef} (hf : s.fatal = none)
    (hb : r.info.block ∈ s.cfg.irqBlocks) (hbound : s.handler ⟨r.info.block, c⟩ = some h') (ch : Nat)
    (h : HandlerRef) : s.bindHandler ch r c h = .next { s with fatal := some .handlerAlreadyBound } := by
  rw [State.bindHandler, if_pos hb, hbound, if_pos Option.isSome_some, State.raiseFatal_of_none hf]

theorem State.bindHandler_of_free {s : State} {r : Channel} {c : IrqClass} (hb : r.info.block ∈ s.cfg.irqBlocks)
    (hfree : s.handler ⟨r.info.block, c⟩ = none) (ch : Nat) (h : HandlerRef) :
    s.bindHandler ch r c h = .next (s.withBinding ch r c h) := by
  simp [State.bindHandler, hb, hfree, State.withBinding]

/-- Settles O20: the three answers of a bind, and for the free slot the laws of `withBinding`. -/
theorem bindRegistersTheOneHandler : Obligations.BindRegistersTheOneHandler := by
  intro s c ch h hslots ha
  obtain ⟨hf, -⟩ := State.hostAccepts_iff.mp ha
  rw [exec_bindOp]
  refine ⟨State.onChannel_of_le ha, fun r hr => ?_⟩
  rw [State.onChannel_row ha hr]
  refine ⟨fun hb => State.bindHandler_of_unsupported hf hb ch c h,
    fun h' hbound hb => State.bindHandler_of_bound hf hb hbound ch h, fun hb hfree => ?_⟩
  exact ⟨_, State.bindHandler_of_free hb hfree ch h, State.handler_withBinding_self (hslots ▸ hb) ch h,
    fun _ hne => State.handler_withBinding_of_ne hne, State.inService_withBinding s ch r c h,
    State.irqReq_withBinding hr c h, State.row_withBinding_self hr c h, State.onlyRow_withBinding s ch r c h,
    rfl, rfl, rfl, rfl, rfl⟩

end Sys2Proof.Machine

/-! SUPPORT. Arming and disarming (42_interrupt_control.md R142, R143): the enable bit written, and the request recomputed from it. Settles O21. -/

namespace Sys2Proof.Machine

/-- Of the two enable bits of a row, the one of the class is written (R16). -/
theorem Channel.enabled_withEnabled (r : Channel) (c c' : IrqClass) (v : Bool) :
    (r.withEnabled c v).enabled c' = if c' = c then v else r.enabled c' := by
  cases c <;> cases c' <;> rfl

/-- No enable bit is part of a ready flag (R21). -/
theorem ready_withEnabled (cfg : Config) (r : Channel) (c c' : IrqClass) (v : Bool) :
    ready cfg (r.withEnabled c v) c' = ready cfg r c' := by
  cases c <;> cases c' <;> rfl

/-- A channel with the enable of a class written requests of that class exactly when it was armed and is ready (R22). -/
theorem Channel.requests_withEnabled_self (cfg : Config) (r : Channel) (c : IrqClass) (v : Bool) :
    (r.withEnabled c v).requests cfg c = (v && ready cfg r c) := by
  rw [Channel.requests, Channel.enabled_withEnabled, if_pos rfl, ready_withEnabled]

/-- The request of a channel's own block and class after its enable is written: the channel armed and ready, or
another channel of the block (R142, R143). -/
theorem State.irqReq_setRow_withEnabled_iff {s : State} {ch : Nat} {r : Channel} {c : IrqClass} {v : Bool}
    (hr : s.row ch = some r) :
    (s.setRow ch (r.withEnabled c v)).irqReq ⟨r.info.block, c⟩ = true ↔
      (v = true ∧ ready s.cfg r c = true) ∨
      ∃ ch' r', ch' ≠ ch ∧ s.row ch' = some r' ∧ r'.info.block = r.info.block ∧ r'.requests s.cfg c = true := by
  simp [State.irqReq_setRow_iff (State.lt_of_row hr), Channel.requests_withEnabled_self]

/-- The two sets are one operation, told apart by the class (R142, R143). -/
theorem exec_setOp (c : IrqClass) (ch : Nat) (v : Bool) (s : State) :
    exec (setOp c ch v) s = s.onChannel (setOp c ch v) ch fun r =>
      .next ((s.setRow ch (r.withEnabled c v)).returning .nothing) := by
  cases c <;> rfl

/-- Settles O21: a set writes the one row, and the request is read off the written table. -/
theorem setInterruptWritesTheEnable : Obligations.SetInterruptWritesTheEnable := by
  intro s c ch v ha
  rw [exec_setOp]
  refine ⟨State.onChannel_of_le ha, fun r hr => ?_⟩
  rw [State.onChannel_row ha hr]
  have hrequest := State.irqReq_setRow_withEnabled_iff (c := c) (v := v) hr
  refine ⟨_, rfl, State.row_setRow_self (State.lt_of_row hr) _, ?written, ?others, ?armed, ?disarmed,
    State.onlyRow_of_channels_eq_set rfl, ⟨rfl, rfl, rfl, rfl⟩, rfl, rfl⟩
  case written => rw [Channel.enabled_withEnabled, if_pos rfl]
  case others =>
    intro c' hne
    rw [Channel.enabled_withEnabled, if_neg hne]
  case armed => exact fun hv hready => hrequest.mpr (.inl ⟨hv, hready⟩)
  case disarmed =>
    intro hv hothers
    refine Bool.eq_false_iff.mpr fun hreq => ?_
    rcases hrequest.mp hreq with ⟨harmed, -⟩ | ⟨ch', r', hne, hr', hblock, hreq'⟩
    · exact Bool.false_ne_true (hv.symm.trans harmed)
    · exact Bool.false_ne_true ((hothers ch' r' hne hr' hblock).symm.trans hreq')

end Sys2Proof.Machine

/-! SUPPORT. ENGINE_TAKE (43_engine_side.md R160, R169): what it answers when it is enabled and when it is not. Settles O23. -/

namespace Sys2Proof.Machine

/-- ENGINE_TAKE takes the word at the head while the engine may owe more (R160, R169). -/
theorem exec_engineTake_of_txq_eq_cons {s : State} {ch : Nat} {r : Channel} {w : Word} {q : List Word}
    (hr : s.row ch = some r) (hq : r.txq = w :: q) (hm : mayOweMore s.cfg r.owed = true) :
    exec (.engineTake ch) s = .next (s.takeWord ch r w q) := by
  simp [exec, execEngineTake, hr, hq, qPop, hm]

/-- ENGINE_TAKE is never refused: it has no step where its `requires` fails. -/
theorem exec_engineTake_of_not_takeEnabled {s : State} {ch : Nat} (h : ¬ s.takeEnabled ch = true) :
    exec (.engineTake ch) s = .next s := by
  cases hr : s.row ch with
  | none => simp [exec, execEngineTake, State.noStep, hr]
  | some r =>
    cases hq : r.txq with
    | nil => simp [exec, execEngineTake, State.noStep, hr, hq, qPop]
    | cons w q =>
      have hm : ¬ mayOweMore s.cfg r.owed = true := fun hm => h (State.takeEnabled_iff.mpr ⟨r, w, q, hr, hq, hm⟩)
      simp [exec, execEngineTake, State.noStep, hr, hq, qPop, hm]

/-- A full outbound queue has room once its head is taken (R21). -/
theorem txReady_of_full_cons {c : Config} {r : Channel} {w : Word} {q : List Word} (hq : r.txq = w :: q)
    (hfull : r.txq.length = c.txqDepth) : txReady c r = false ∧ txReady c { r with txq := q } = true := by
  refine ⟨txReady_eq_false_iff.mpr hfull.ge, txReady_iff.mpr ?_⟩
  rw [← hfull, hq, List.length_cons]
  exact Nat.lt_succ_self _

/-- Settles O23: the state `takeWord` makes, and each way the `requires` of ENGINE_TAKE fails. -/
theorem engineTakeRemovesTheHead : Obligations.EngineTakeRemovesTheHead := by
  intro s ch
  refine ⟨fun r w q hr hq hlimit => ?taken, fun hle => ?noChannel, fun r hr hq => ?empty,
    fun r m hr hlimit hle => ?atLimit⟩
  case taken =>
    exact ⟨_, exec_engineTake_of_txq_eq_cons hr hq (mayOweMore_iff.mpr hlimit), rfl,
      State.row_setRow_self (State.lt_of_row hr) _, txReady_of_full_cons hq,
      State.onlyRow_of_channels_eq_set rfl, ⟨rfl, rfl, rfl, rfl⟩, rfl⟩
  all_goals
    refine exec_engineTake_of_not_takeEnabled fun he => ?_
    obtain ⟨r₀, w, q, hr₀, hq₀, hm⟩ := State.takeEnabled_iff.mp he
  case noChannel => exact Nat.not_lt.mpr hle (State.lt_of_row hr₀)
  case empty =>
    obtain rfl : r = r₀ := Option.some.inj (hr.symm.trans hr₀)
    exact List.cons_ne_nil w q (hq₀.symm.trans hq)
  case atLimit =>
    obtain rfl : r = r₀ := Option.some.inj (hr.symm.trans hr₀)
    exact Nat.not_lt.mpr hle (mayOweMore_iff.mp hm m hlimit)

end Sys2Proof.Machine

/-! SUPPORT. The engines side by side (10_state.md R24, 43_engine_side.md R166): an operation writes only the row it names, and what enables an engine step is read off its own row. Settles O28. -/

namespace Sys2Proof.Machine

/-! ### The one row an operation writes -/

theorem namedChannel_of_engineChannel {i : Instr} {ch : Nat} (h : engineChannel i = some ch) :
    namedChannel i = some ch := by
  cases i with
  | engineTake | engineGive | cmdTx | cmdRx => exact h
  | _ => cases h

/-- An operation writes a row only of the channel it names (R24). -/
theorem RowWrite.namedChannel_eq {s : State} {ch : Nat} {r r' : Channel} {i : Instr} (h : RowWrite s ch r i r') :
    namedChannel i = some ch := by
  cases h with
  | bind c x => exact namedChannel_bindOp c ch x
  | set c v => exact namedChannel_setOp c ch v
  | take i w q takes => exact namedChannel_of_engineChannel (engineChannel_of_takesCommand takes)
  | _ => rfl

/-- An operation that names a channel creates none and leaves every other row (R24). -/
theorem exec_onlyRow_of_namedChannel {s t : State} {i : Instr} {ch : Nat} (hi : namedChannel i = some ch)
    (h : exec i s = .next t) : State.OnlyRow s t ch := by
  have hchange := (exec_table h).2
  generalize hcs : t.channels = cs at hchange
  cases hchange with
  | same => exact ⟨congrArg List.length hcs, fun ch' _ => State.row_congr hcs ch'⟩
  | created p v op =>
    subst op
    cases hi
  | written row write =>
    obtain rfl := Option.some.inj (write.namedChannel_eq.symm.trans hi)
    exact State.onlyRow_of_channels_eq_set hcs

/-! ### What enables an engine step -/

section
variable {s t : State} {ch : Nat} (hcfg : t.cfg = s.cfg) (hrow : t.row ch = s.row ch)
include hrow

theorem State.headIs_congr (k : QueueKind) (w : Word) : t.headIs k ch w = s.headIs k ch w := by
  rw [State.headIs, State.headWord, hrow, State.headIs, State.headWord]

include hcfg

theorem State.takeEnabled_congr : t.takeEnabled ch = s.takeEnabled ch := by
  rw [State.takeEnabled, hcfg, hrow, State.takeEnabled]

theorem State.giveEnabled_congr : t.giveEnabled ch = s.giveEnabled ch := by
  rw [State.giveEnabled, hcfg, hrow, State.giveEnabled]

/-- Whether a step of an engine is enabled depends on the parameters and on its own row only (R160, R161). -/
theorem State.enabled_congr_of_engineChannel {j : Instr} (hj : engineChannel j = some ch) :
    t.enabled j = s.enabled j := by
  have htake := State.takeEnabled_congr hcfg hrow
  cases j with
  | engineTake =>
    cases hj
    exact htake
  | engineGive =>
    cases hj
    exact State.giveEnabled_congr hcfg hrow
  | cmdTx | cmdRx =>
    cases hj
    rw [State.enabled, htake, State.headIs_congr hrow, hcfg, State.enabled]
  | _ => cases hj

end

/-- Settles O28: a step of Engine(a) writes no parameter and no row but that of `a`. -/
theorem enginesAreIndependent : Obligations.EnginesAreIndependent := by
  intro s t a i hi h b j hj hne
  have honly := exec_onlyRow_of_namedChannel (namedChannel_of_engineChannel hi) h
  exact State.enabled_congr_of_engineChannel (exec_table h).1 (honly.others b hne.symm) hj

end Sys2Proof.Machine

/-! SUPPORT. The two word formats, there and back (30_encoding.md tables T1 and T2, R61, R66, R69): the bits that make a command word, each field read from where it was put, and each word put together again from its fields. Settles O3, O5, O7, O8 and O9. -/

namespace Sys2Proof.Machine

/-! ### The command format -/

/-- `n` is the place of one of the four flags of a command word (R61). -/
def IsFlagBit (c : Config) (n : Nat) : Prop :=
  n = c.cmdStartBit.val ∨ n = c.cmdStopBit.val ∨ n = c.cmdReplyBit.val ∨ n = c.cmdNackBit.val

/-- The fields of a command word are its data and the places of its flags. -/
theorem getLsbD_commandBits (c : Config) {i : Nat} (hi : i < 32) :
    (commandBits c).getLsbD i = true ↔ 24 ≤ i ∨ IsFlagBit c i := by
  rw [commandBits, getLsbD_commandWord c _ _ _ _ _ hi]
  by_cases h : 24 ≤ i
  · have hbyte : (0xFF#8).getLsbD (i - 24) = true := by
      rw [show 0xFF#8 = BitVec.allOnes 8 from rfl, BitVec.getLsbD_allOnes, decide_eq_true_iff]
      omega
    simp [h, hbyte]
  · simp [h, IsFlagBit, or_assoc]

/-- A word has the command format when every bit set below its data is a flag's (R61, R69). -/
theorem isCommandWord_iff {c : Config} {w : Word} :
    isCommandWord c w = true ↔ ∀ n, n < 24 → w.getLsbD n = true → IsFlagBit c n := by
  rw [isCommandWord, beq_iff_eq]
  constructor
  · intro h n hn hw
    have hbit : (w &&& ~~~commandBits c).getLsbD n = false := by rw [h, BitVec.getLsbD_zero]
    have hfield : (commandBits c).getLsbD n = true := by
      simpa [hw, show n < 32 by omega] using hbit
    exact ((getLsbD_commandBits c (by omega)).mp hfield).resolve_left (by omega)
  · intro h
    refine BitVec.eq_of_getLsbD_eq fun i hi => ?_
    cases hw : w.getLsbD i with
    | false => simp [hw]
    | true =>
      have hfield : (commandBits c).getLsbD i = true :=
        (getLsbD_commandBits c hi).mpr ((Nat.lt_or_ge i 24).elim (fun hlt => .inr (h i hlt hw)) .inl)
      simp [hfield]

/-- A word assembled from fields has no bit outside them (R61). -/
theorem isCommandWord_commandWord (c : Config) (d : Byte) (start stop reply nack : Bool) :
    isCommandWord c (commandWord c d start stop reply nack) = true := by
  refine isCommandWord_iff.mpr fun n hn hbit => ?_
  rw [getLsbD_commandWord c d _ _ _ _ (by omega), if_neg (by omega)] at hbit
  simp only [Bool.or_eq_true, Bool.and_eq_true, decide_eq_true_eq] at hbit
  unfold IsFlagBit
  tauto

/-- The four flags have four places in an admissible layout (R7). -/
theorem flagBits_ne {c : Config} (hc : c.Valid) :
    (c.cmdStartBit.val ≠ c.cmdStopBit.val ∧ c.cmdStartBit.val ≠ c.cmdReplyBit.val ∧
      c.cmdStartBit.val ≠ c.cmdNackBit.val) ∧
    (c.cmdStopBit.val ≠ c.cmdReplyBit.val ∧ c.cmdStopBit.val ≠ c.cmdNackBit.val) ∧
    c.cmdReplyBit.val ≠ c.cmdNackBit.val := by
  obtain ⟨-, -, -, -, -, -, hplaces, -⟩ := hc
  simpa [Fin.ext_iff] using hplaces

section
variable {c : Config} (hc : c.Valid) (d : Byte) (start stop reply nack : Bool)
include hc

/-! Each flag is read from the place where it was put, in an admissible layout (R61, R67). -/

theorem getLsbD_commandWord_start : (commandWord c d start stop reply nack).getLsbD c.cmdStartBit.val = start := by
  obtain ⟨⟨h1, h2, h3⟩, -, -⟩ := flagBits_ne hc
  rw [getLsbD_commandWord c d _ _ _ _ (by omega)]
  simp [h1, h2, h3]

theorem getLsbD_commandWord_stop : (commandWord c d start stop reply nack).getLsbD c.cmdStopBit.val = stop := by
  obtain ⟨⟨h1, -, -⟩, ⟨h2, h3⟩, -⟩ := flagBits_ne hc
  rw [getLsbD_commandWord c d _ _ _ _ (by omega)]
  simp [h1.symm, h2, h3]

theorem wordReply_commandWord : wordReply c (commandWord c d start stop reply nack) = reply := by
  obtain ⟨⟨-, h1, -⟩, ⟨h2, -⟩, h3⟩ := flagBits_ne hc
  rw [wordReply, getLsbD_commandWord c d _ _ _ _ (by omega)]
  simp [h1.symm, h2.symm, h3]

theorem getLsbD_commandWord_nack : (commandWord c d start stop reply nack).getLsbD c.cmdNackBit.val = nack := by
  obtain ⟨⟨-, -, h1⟩, ⟨-, h2⟩, h3⟩ := flagBits_ne hc
  rw [getLsbD_commandWord c d _ _ _ _ (by omega)]
  simp [h1.symm, h2.symm, h3.symm]

end

/-- A command word is put together again from what is read of it (R61). -/
theorem commandWord_of_fields {c : Config} {w : Word} (h : isCommandWord c w = true) :
    commandWord c (wordData w) (w.getLsbD c.cmdStartBit) (w.getLsbD c.cmdStopBit) (wordReply c w)
      (w.getLsbD c.cmdNackBit) = w := by
  refine BitVec.eq_of_getLsbD_eq fun i hi => ?_
  rw [getLsbD_commandWord c _ _ _ _ _ hi, wordReply]
  split
  · rw [getLsbD_wordData w (by omega), Nat.add_sub_of_le ‹_›]
  · rw [Bool.eq_iff_iff]
    simp only [Bool.or_eq_true, Bool.and_eq_true, decide_eq_true_eq]
    constructor
    · rintro (((⟨hw, rfl⟩ | ⟨hw, rfl⟩) | ⟨hw, rfl⟩) | ⟨hw, rfl⟩) <;> exact hw
    · intro hw
      obtain rfl | rfl | rfl | rfl := isCommandWord_iff.mp h i (by omega) hw <;> simp [hw]

/-! ### The response format -/

/-- A response word has the data in bits 31:24, the status bit at its place, and the ignored bits below (table T2). -/
theorem getLsbD_responseWord (c : Config) (d : Byte) (n : Bool) (g : BitVec 24) {i : Nat} (hi : i < 32) :
    (responseWord c d n g).getLsbD i =
      if 24 ≤ i then d.getLsbD (i - 24) else (n && decide (i = c.rspNackBit.val)) || g.getLsbD i := by
  simp only [responseWord, BitVec.getLsbD_or, getLsbD_dataField d hi, getLsbD_bitAt, BitVec.getLsbD_setWidth, hi]
  split
  case isTrue h =>
    have hplace : i ≠ c.rspNackBit.val := by omega
    simp [h, hplace]
  case isFalse h => simp [h]

theorem getLsbD_responseIgnored (c : Config) (w : Word) {i : Nat} (hi : i < 24) :
    (responseIgnored c w).getLsbD i = (w.getLsbD i && !decide (i = c.rspNackBit.val)) := by
  by_cases h : i = c.rspNackBit.val
  · simp [responseIgnored, h]
  · have hshift : i < c.rspNackBit.val ∨ ¬ i - c.rspNackBit.val = 0 := by omega
    simp [responseIgnored, hi, h, hshift]

@[simp] theorem wordData_responseWord (c : Config) (d : Byte) (n : Bool) (g : BitVec 24) :
    wordData (responseWord c d n g) = d := by
  refine BitVec.eq_of_getLsbD_eq fun i hi => ?_
  rw [getLsbD_wordData _ hi, getLsbD_responseWord c d n g (by omega), if_pos (Nat.le_add_right 24 i),
    Nat.add_sub_cancel_left]

/-- The status bit is read from its place when the ignored bits leave that place empty (R66). -/
theorem getLsbD_responseWord_status {c : Config} (d : Byte) (n : Bool) {g : BitVec 24}
    (hg : g.getLsbD c.rspNackBit = false) : (responseWord c d n g).getLsbD c.rspNackBit.val = n := by
  rw [getLsbD_responseWord c d n g (by omega), if_neg (by omega), hg]
  simp

theorem responseIgnored_responseWord {c : Config} (d : Byte) (n : Bool) {g : BitVec 24}
    (hg : g.getLsbD c.rspNackBit = false) : responseIgnored c (responseWord c d n g) = g := by
  refine BitVec.eq_of_getLsbD_eq fun i hi => ?_
  rw [getLsbD_responseIgnored c _ hi, getLsbD_responseWord c d n g (by omega), if_neg (by omega)]
  by_cases h : i = c.rspNackBit.val
  · rw [h, hg]
    simp
  · simp [h]

/-- Every word is put together again from what is read of it as a response (R66). -/
theorem responseWord_of_fields (c : Config) (w : Word) :
    responseWord c (wordData w) (w.getLsbD c.rspNackBit) (responseIgnored c w) = w := by
  refine BitVec.eq_of_getLsbD_eq fun i hi => ?_
  rw [getLsbD_responseWord c _ _ _ hi]
  split
  · rw [getLsbD_wordData w (by omega), Nat.add_sub_of_le ‹_›]
  · rw [getLsbD_responseIgnored c w (by omega)]
    by_cases h : i = c.rspNackBit.val
    · simp [h]
    · simp [h]

/-! ### The decoder and the encoder -/

/-- The decoder reads an assembled command word as the format its reply bit says, with the fields it was given. -/
theorem decodeWord_commandWord {c : Config} (hc : c.Valid) (ch : Nat) (d : Byte) (start stop reply nack : Bool) :
    decodeWord c .outbound ch (commandWord c d start stop reply nack) =
      .ok (if reply then .cmdRx ch d start stop nack else .cmdTx ch d start stop nack) := by
  cases reply <;>
    simp [decodeWord, decodeCommand, isCommandWord_commandWord, wordReply_commandWord hc,
      getLsbD_commandWord_start hc, getLsbD_commandWord_stop hc, getLsbD_commandWord_nack hc]

/-- The decoder reads an assembled response word with the fields it was given. -/
theorem decodeWord_responseWord {c : Config} (ch : Nat) (d : Byte) (n : Bool) {g : BitVec 24}
    (hg : g.getLsbD c.rspNackBit = false) :
    decodeWord c .inbound ch (responseWord c d n g) = .ok (.rsp ch d n g) := by
  simp [decodeWord, decodeResponse, getLsbD_responseWord_status d n hg, responseIgnored_responseWord d n hg]

/-- Settles O8: only the three word formats stand in a queue, and each is decoded from its assembled word. -/
theorem decodeOfEncodeIsTheInstruction : Obligations.DecodeOfEncodeIsTheInstruction := by
  intro c hc i hwf k ch hq
  cases i with
  | cmdTx ch' d st sp n =>
    cases hq
    exact ⟨_, rfl, decodeWord_commandWord hc ch d st sp false n⟩
  | cmdRx ch' d st sp n =>
    cases hq
    exact ⟨_, rfl, decodeWord_commandWord hc ch d st sp true n⟩
  | rsp ch' d n g =>
    cases hq
    have hg : g.getLsbD c.rspNackBit = false := by
      simpa using (Bool.and_eq_true_iff.mp hwf).2
    exact ⟨_, rfl, decodeWord_responseWord ch d n hg⟩
  | _ => cases hq

/-- The decoder rejects a command word only for its format (R69, D4). -/
theorem decodeWord_outbound_eq_rejected_iff {c : Config} {ch : Nat} {w : Word} {e : DecodeError} :
    decodeWord c .outbound ch w = .rejected e ↔ isCommandWord c w = false := by
  cases e
  cases hw : isCommandWord c w <;> cases hr : wordReply c w <;> simp [decodeWord, decodeCommand, hw, hr]

/-- What the decoder can read in an outbound queue: one of the two formats, assembled from its fields (R61). -/
theorem decodeWord_outbound_eq_ok {c : Config} {ch : Nat} {w : Word} {i : Instr}
    (h : decodeWord c .outbound ch w = .ok i) :
    (∃ d st sp n, i = .cmdTx ch d st sp n ∧ w = commandWord c d st sp false n) ∨
    (∃ d st sp n, i = .cmdRx ch d st sp n ∧ w = commandWord c d st sp true n) := by
  cases hw : isCommandWord c w with
  | false => cases (decodeWord_outbound_eq_rejected_iff (e := .unusedBitsSet).mpr hw).symm.trans h
  | true =>
    have hfields := (commandWord_of_fields hw).symm
    simp only [decodeWord, decodeCommand, hw, if_true] at h
    split at h
    case isTrue hr =>
      cases h
      exact .inr ⟨_, _, _, _, rfl, by rwa [hr] at hfields⟩
    case isFalse hr =>
      cases h
      exact .inl ⟨_, _, _, _, rfl, by rwa [Bool.eq_false_iff.mpr hr] at hfields⟩

/-- A word that is decoded is the one word of its instruction (R60). -/
theorem encode_of_decodeWord {c : Config} {k : QueueKind} {ch : Nat} {w : Word} {i : Instr}
    (h : decodeWord c k ch w = .ok i) : encode c i = [w] := by
  cases k with
  | outbound =>
    obtain ⟨d, st, sp, n, rfl, rfl⟩ | ⟨d, st, sp, n, rfl, rfl⟩ := decodeWord_outbound_eq_ok h
    · rfl
    · rfl
  | inbound =>
    cases h
    exact congrArg (fun x => [x]) (responseWord_of_fields c w)

/-- A word has not the command format exactly when a bit outside the data and the flags is set (R61, R69). -/
theorem isCommandWord_eq_false_iff {c : Config} {w : Word} :
    isCommandWord c w = false ↔ ∃ n, n < 24 ∧ w.getLsbD n = true ∧ ¬ IsFlagBit c n := by
  rw [← Bool.not_eq_true, isCommandWord_iff]
  push Not
  rfl

/-- Settles O9: a decoded word encodes back, and the decoder rejects by the format of command words alone. -/
theorem encodeOfDecodeIsTheWord : Obligations.EncodeOfDecodeIsTheWord := by
  intro c _ k ch w
  refine ⟨fun i h => ⟨encode_of_decodeWord h, queueOf_of_decodeWord h⟩, ?_⟩
  cases k with
  | outbound =>
    rw [decodeWord_outbound_eq_rejected_iff, isCommandWord_eq_false_iff]
    simp [IsFlagBit]
  | inbound => simp [decodeWord]

/-- Settles O7: the written-out words are closed, so the decoder computes each meaning. -/
theorem specWordsDecode : Obligations.SpecWordsDecode :=
  ⟨by decide, by decide, by decide, by decide, by decide⟩

/-! ### The operands of ENCODE -/

/-- Two command words are one word exactly when every field agrees (R92 (d)). -/
theorem commandWord_inj {c : Config} (hc : c.Valid) {d d' : Byte} {st st' sp sp' rp rp' n n' : Bool} :
    commandWord c d st sp rp n = commandWord c d' st' sp' rp' n' ↔
      d = d' ∧ st = st' ∧ sp = sp' ∧ rp = rp' ∧ n = n' := by
  constructor
  · intro h
    refine ⟨?_, ?_, ?_, ?_, ?_⟩
    · simpa using congrArg wordData h
    · simpa only [getLsbD_commandWord_start hc] using congrArg (·.getLsbD c.cmdStartBit.val) h
    · simpa only [getLsbD_commandWord_stop hc] using congrArg (·.getLsbD c.cmdStopBit.val) h
    · simpa only [wordReply_commandWord hc] using congrArg (wordReply c) h
    · simpa only [getLsbD_commandWord_nack hc] using congrArg (·.getLsbD c.cmdNackBit.val) h
  · rintro ⟨rfl, rfl, rfl, rfl, rfl⟩
    rfl

/-- Settles O3: the words are command words of their fields, and ACK is no field. -/
theorem encodeIsInjectiveOnFields : Obligations.EncodeIsInjectiveOnFields := by
  intro c hc d d' f f' w w' h h'
  obtain ⟨-, rfl⟩ := encodeOperands_eq_some.mp h
  obtain ⟨-, rfl⟩ := encodeOperands_eq_some.mp h'
  exact ⟨wordData_commandWord c d _ _ _ _, commandWord_inj hc, encodeOperands_eq_some.mpr ⟨rfl, rfl⟩⟩

/-- Settles O5: DECODE reads the status bit where ENCODE put the NACK flag. -/
theorem roundTripRecoversAckPolicy : Obligations.RoundTripRecoversAckPolicy := by
  intro c hc hplace d f w h
  obtain ⟨-, rfl⟩ := encodeOperands_eq_some.mp h
  rw [decodeResponseWord, wordData_commandWord, responseAck, hplace, getLsbD_commandWord_nack hc]

end Sys2Proof.Machine

/-! SUPPORT. What SUBMIT, RECEIVE and DESCRIBE_CHANNELS answer (41_transport.md R114, R120, R121, R124, R126): refused, held or completed, one equation for each. Settles O2, O13, O14, O15, O16 and O19. -/

namespace Sys2Proof.Machine

/-! ### The checks of ENCODE and SUBMIT -/

/-- A flag set is invalid exactly with both ACK and NACK (R64). -/
theorem valid_eq_false_iff {f : FlagSet} : f.valid = false ↔ f.ack = true ∧ f.nack = true := by
  simp [FlagSet.valid]

theorem exec_encode_of_not_valid (s : State) (d : Byte) {f : FlagSet} (hv : f.valid = false) :
    exec (.encode d f) s = .refused .invalidFlagSet := by
  simp [exec, execEncode, encodeOperands_eq_none.mpr hv]

/-- What a completed SUBMIT answers: the word queued, the wait of the top context over (R120, R124). -/
def State.withSubmitted (s : State) (ch : Nat) (r : Channel) (w : Word) : State :=
  ((s.setRow ch { r with txq := r.txq ++ [w] }).release).returning .nothing

@[simp] theorem State.withSubmitted_cfg (s : State) (ch : Nat) (r : Channel) (w : Word) :
    (s.withSubmitted ch r w).cfg = s.cfg := rfl

theorem State.row_withSubmitted_self {s : State} {ch : Nat} {r : Channel} (hr : s.row ch = some r) (w : Word) :
    (s.withSubmitted ch r w).row ch = some { r with txq := r.txq ++ [w] } :=
  State.row_setRow_self (State.lt_of_row hr) _

section
variable {s : State} {ch : Nat} {d : Byte} {f : FlagSet} {r : Channel}
  (ha : s.hostAccepts (.submit ch d f) = true) (hr : s.row ch = some r)
include ha hr

theorem exec_submit_of_not_valid (hv : f.valid = false) :
    exec (.submit ch d f) s = .refused .invalidFlagSet := by
  have hx : exec (.submit ch d f) s = _ := State.onChannel_row ha hr
  rw [hx, encodeOperands_eq_none.mpr hv]

/-- A valid SUBMIT with room completes (R120). -/
theorem exec_submit_of_room (hv : f.valid = true) (hroom : r.txq.length < s.cfg.txqDepth) :
    exec (.submit ch d f) s =
      .next (s.withSubmitted ch r (commandWord s.cfg d f.start f.stop f.reply f.nack)) := by
  have hx : exec (.submit ch d f) s = _ := State.onChannel_row ha hr
  rw [hx, encodeOperands_eq_some.mpr ⟨hv, rfl⟩]
  exact if_pos (txReady_iff.mpr hroom)

/-- A valid SUBMIT to a full queue only makes its context wait (R124, D25). -/
theorem exec_submit_of_full (hv : f.valid = true) (hfull : s.cfg.txqDepth ≤ r.txq.length) :
    exec (.submit ch d f) s = .next (s.hold (.submit ch d f)) := by
  have hx : exec (.submit ch d f) s = _ := State.onChannel_row ha hr
  rw [hx, encodeOperands_eq_some.mpr ⟨hv, rfl⟩]
  exact if_neg (Bool.eq_false_iff.mp (txReady_eq_false_iff.mpr hfull))

/-- A valid SUBMIT on a created channel is not refused (R120, R218). -/
theorem exec_submit_of_valid (hv : f.valid = true) : ∃ t, exec (.submit ch d f) s = .next t := by
  rcases Nat.lt_or_ge r.txq.length s.cfg.txqDepth with hroom | hfull
  · exact ⟨_, exec_submit_of_room ha hr hv hroom⟩
  · exact ⟨_, exec_submit_of_full ha hr hv hfull⟩

end

/-- Settles O2: the channel is checked first, then the flag set, and nothing else refuses. -/
theorem ackWithNackIsRefused : Obligations.AckWithNackIsRefused := by
  intro s d f
  simp only [← valid_eq_false_iff]
  refine ⟨⟨fun h => ?_, exec_encode_of_not_valid s d⟩, fun ch ha => ⟨State.onChannel_of_le ha, fun r hr => ?_⟩⟩
  · by_contra hv
    cases (exec_encode s d (Bool.eq_true_of_not_eq_false hv)).symm.trans h
  · cases hv : f.valid with
    | false => simp [exec_submit_of_not_valid ha hr hv]
    | true =>
      obtain ⟨t, hx⟩ := exec_submit_of_valid ha hr hv
      simp [hx]

/-- Settles O14: below the depth SUBMIT is `withSubmitted`, and one word more may fill the queue. -/
theorem submitAppendsItsWord : Obligations.SubmitAppendsItsWord := by
  intro s ch d f r ha hr hv hroom
  refine ⟨_, _, exec_encode s d hv, exec_submit_of_room ha hr hv hroom, State.row_withSubmitted_self hr _, ?_,
    State.onlyRow_of_channels_eq_set rfl, ⟨rfl, rfl, rfl, rfl⟩, rfl, rfl⟩
  rw [txReady_eq_false_iff, State.withSubmitted_cfg, List.length_append, List.length_singleton]
  omega

/-! ### The hold -/

/-- Only the wait of the top context is written: what lies below it stays. -/
theorem ContextStack.tail_setTopHeld (k : ContextStack) (h : Option HeldOp) :
    (k.setTopHeld h).irqs.tail = k.irqs.tail := by
  obtain ⟨g, irqs⟩ := k
  cases irqs <;> rfl

theorem ContextStack.fgHeld_setTopHeld {k : ContextStack} (hk : k.top ≠ .foreground) (h : Option HeldOp) :
    (k.setTopHeld h).fgHeld = k.fgHeld := by
  obtain ⟨g, irqs⟩ := k
  cases irqs with
  | nil => exact absurd rfl hk
  | cons => rfl

/-- A context that waits accepts only the completion of its wait (R124). -/
theorem State.hostAccepts_eq_false_of_held {s : State} {i : Instr} {h : HeldOp}
    (hheld : s.contexts.topHeld = some h) (hi : heldOpOf i ≠ some h) : s.hostAccepts i = false := by
  refine Bool.eq_false_iff.mpr fun ha => ?_
  obtain ⟨-, hnone | ⟨h', hsome, hi'⟩⟩ := State.hostAccepts_iff.mp ha
  · cases hnone.symm.trans hheld
  · exact hi (hi'.trans (hsome.symm.trans hheld))

/-- Settles O16: the hold writes the wait of the top context and nothing else. -/
theorem submitHoldsWhileFull : Obligations.SubmitHoldsWhileFull := by
  intro s ch d f r ha hr hv hfull
  have hheld : (s.hold (.submit ch d f)).contexts.topHeld = some (.submit ch d f) :=
    ContextStack.topHeld_setTopHeld _ _
  exact ⟨_, exec_submit_of_full ha hr hv hfull, rfl, ⟨rfl, rfl, rfl, rfl⟩, rfl, hheld,
    ContextStack.top_setTopHeld _ _, ContextStack.tail_setTopHeld _ _,
    fun hk => ContextStack.fgHeld_setTopHeld hk _, fun _ => State.hostAccepts_eq_false_of_held hheld⟩

/-! ### RECEIVE -/

theorem exec_receive_of_rxq_eq_nil {s : State} {ch : Nat} {r : Channel} (ha : s.hostAccepts (.receive ch) = true)
    (hr : s.row ch = some r) (hq : r.rxq = []) : exec (.receive ch) s = .next (s.hold (.receive ch)) := by
  have hx : exec (.receive ch) s = _ := State.onChannel_row ha hr
  rw [hx, qPop_eq_none.mpr hq]

theorem rxReady_eq_false_iff {r : Channel} : rxReady r = false ↔ r.rxq = [] := by
  simp [rxReady]

/-- Settles O15: one equation for the missing channel, for the empty queue and for the oldest word. -/
theorem receiveTakesTheOldestWord : Obligations.ReceiveTakesTheOldestWord := by
  intro s ch ha
  refine ⟨State.onChannel_of_le ha, fun r hr hq => exec_receive_of_rxq_eq_nil ha hr hq, fun r w q hr hq => ?_⟩
  exact ⟨_, _, _, exec_receive_of_rxq_eq_cons ha hr hq, exec_decode s w, rfl,
    State.row_setRow_self (State.lt_of_row hr) _, rxReady_eq_false_iff, State.onlyRow_of_channels_eq_set rfl,
    ⟨rfl, rfl, rfl, rfl⟩, rfl⟩

/-! ### DESCRIBE_CHANNELS -/

/-- The lines of the table are the channels in order, numbered from `n` (R114). -/
theorem describeFrom_eq_mapIdx (n : Nat) (rs : List Channel) :
    describeFrom n rs = rs.mapIdx fun i r => ⟨n + i, r.info⟩ := by
  induction rs generalizing n with
  | nil => rfl
  | cons r rs ih => simp [describeFrom, ih, Nat.add_assoc, Nat.add_comm 1]

/-- Settles O13: the table is the channel list with its indices. -/
theorem describeChannelsReturnsTheTable : Obligations.DescribeChannelsReturnsTheTable := by
  intro s ha
  refine ⟨describeFrom 0 s.channels, if_pos ha, ?_, fun ch r hr => ?_⟩
  · rw [describeFrom_eq_mapIdx, List.length_mapIdx, State.nChannels]
  · rw [State.row] at hr
    simp [describeFrom_eq_mapIdx, hr]

/-! ### A list of SUBMITs -/

/-- SUBMITs that fit into the queue all complete without waiting, whatever their words (R126). -/
theorem runOps_submits {reqs : List (Byte × FlagSet)} {s : State} {ch : Nat} {r : Channel} (hf : s.fatal = none)
    (hidle : s.contexts.topHeld = none) (hr : s.row ch = some r) (hv : ∀ q ∈ reqs, q.2.valid = true)
    (hroom : r.txq.length + reqs.length ≤ s.cfg.txqDepth) :
    ∃ t r', runOps (reqs.map fun q => .submit ch q.1 q.2) s = some t ∧ t.row ch = some r' ∧
      r'.txq.length = r.txq.length + reqs.length ∧ t.contexts.topHeld = none := by
  induction reqs generalizing s r with
  | nil => exact ⟨s, r, rfl, hr, rfl, hidle⟩
  | cons q reqs ih =>
    obtain ⟨hq, hrest⟩ := List.forall_mem_cons.mp hv
    rw [List.length_cons] at hroom
    have hx := exec_submit_of_room (d := q.1) (State.hostAccepts_of_idle hf hidle _) hr hq (by omega)
    obtain ⟨t, r', hrun, hr', hlen, hidle'⟩ :=
      ih (s := s.withSubmitted ch r _) hf (ContextStack.topHeld_setTopHeld _ _) (State.row_withSubmitted_self hr _)
        hrest (by simp only [List.length_append, List.length_singleton, State.withSubmitted_cfg]; omega)
    refine ⟨t, r', runOps_cons_eq_some.mpr ⟨_, hx, hrun⟩, hr', ?_, hidle'⟩
    rw [List.length_append, List.length_singleton] at hlen
    rw [hlen, List.length_cons]
    omega

/-- Settles O19: four fit into the least depth the spec admits. -/
theorem fourSubmitsNeverWait : Obligations.FourSubmitsNeverWait := by
  intro s ch r d₁ d₂ d₃ d₄ f₁ f₂ f₃ f₄ hvalid hf hidle hr hq h₁ h₂ h₃ h₄
  obtain ⟨-, -, -, -, hdepth, -⟩ := hvalid
  obtain ⟨t, r', hrun, hr', hlen, hidle'⟩ :=
    runOps_submits (reqs := [(d₁, f₁), (d₂, f₂), (d₃, f₃), (d₄, f₄)]) hf hidle hr (by simp [h₁, h₂, h₃, h₄])
      (by simpa [hq] using hdepth)
  exact ⟨t, r', hrun, hr', by simpa [hq] using hlen, hidle'⟩

end Sys2Proof.Machine

/-! SUPPORT. When an operation is refused and when it does not happen (00_scope.md R8, 60_exceptions.md R216 to R218): the operations that check nothing always answer a next state, and one that is not enabled answers its own state or that of a hold. Settles O22 and O36. -/

namespace Sys2Proof.Machine

/-! ### What is refused -/

/-- The operations with a check of their operands: a flag set (R91) or a channel id (R217). -/
def checksOperands : Instr → Bool
  | .encode _ _ => true
  | .submit _ _ _ => true
  | .receive _ => true
  | .bindOutboundHandler _ _ => true
  | .bindInboundHandler _ _ => true
  | .setOutboundInterrupt _ _ => true
  | .setInboundInterrupt _ _ => true
  | _ => false

/-- Every branch of the engine's consumption of a word is a next state. -/
theorem State.consumeCommand_answers (s : State) (ch : Nat) (w : Word) : ∃ t, s.consumeCommand ch w = .next t := by
  unfold State.consumeCommand State.noStep
  repeat' split
  all_goals exact ⟨_, rfl⟩

/-- An operation that checks nothing is refused in no state: every branch of its meaning is a next state. -/
theorem exec_answers {i : Instr} (hi : checksOperands i = false) (s : State) : ∃ t, exec i s = .next t := by
  cases i with
  | decode w => exact ⟨_, rfl⟩
  | cmdTx ch d st sp n => exact State.consumeCommand_answers s ch _
  | cmdRx ch d st sp n => exact State.consumeCommand_answers s ch _
  | createChannel | describeChannels | engineTake | engineGive | irqEnter | irqReturn | rsp =>
    simp only [exec, execCreateChannel, execDescribeChannels, execEngineTake, execEngineGive, execIrqEnter,
      execIrqReturn, execRsp, State.noStep]
    repeat' split
    all_goals exact ⟨_, rfl⟩
  | _ => cases hi

theorem State.onChannel_of_not_accepts {s : State} {i : Instr} (ha : s.hostAccepts i = false) (ch : Nat)
    (k : Channel → Answer) : s.onChannel i ch k = .next s := by
  simp [State.onChannel, State.noStep, ha]

/-- Why a host operation on a channel is refused: the channel, or what the operation on its row refuses. -/
theorem State.onChannel_refused {s : State} {i : Instr} {ch : Nat} {k : Channel → Answer} {e : Refusal}
    (h : s.onChannel i ch k = .refused e) : s.hostAccepts i = true ∧
      ((e = .invalidChannel ∧ s.nChannels ≤ ch) ∨ ∃ r, s.row ch = some r ∧ k r = .refused e) := by
  cases ha : s.hostAccepts i with
  | false => cases (State.onChannel_of_not_accepts ha ch k).symm.trans h
  | true =>
    refine ⟨rfl, ?_⟩
    cases hr : s.row ch with
    | none =>
      rw [State.onChannel_of_le ha (State.row_eq_none.mp hr)] at h
      cases h
      exact .inl ⟨rfl, State.row_eq_none.mp hr⟩
    | some r =>
      rw [State.onChannel_row ha hr] at h
      exact .inr ⟨r, rfl, h⟩

theorem State.bindHandler_ne_refused (s : State) (ch : Nat) (r : Channel) (c : IrqClass) (x : HandlerRef)
    (e : Refusal) : s.bindHandler ch r c x ≠ .refused e := by
  unfold State.bindHandler
  split
  · split <;> nofun
  · nofun

/-- A bind is refused only for its channel (R217). -/
theorem exec_bindOp_refused {s : State} {c : IrqClass} {ch : Nat} {x : HandlerRef} {e : Refusal}
    (h : exec (bindOp c ch x) s = .refused e) :
    e = .invalidChannel ∧ s.hostAccepts (bindOp c ch x) = true ∧ s.nChannels ≤ ch := by
  rw [exec_bindOp] at h
  obtain ⟨ha, ⟨he, hle⟩ | ⟨r, -, hk⟩⟩ := State.onChannel_refused h
  · exact ⟨he, ha, hle⟩
  · exact absurd hk (State.bindHandler_ne_refused s ch r c x e)

/-- A set is refused only for its channel (R217). -/
theorem exec_setOp_refused {s : State} {c : IrqClass} {ch : Nat} {v : Bool} {e : Refusal}
    (h : exec (setOp c ch v) s = .refused e) :
    e = .invalidChannel ∧ s.hostAccepts (setOp c ch v) = true ∧ s.nChannels ≤ ch := by
  rw [exec_setOp] at h
  obtain ⟨ha, ⟨he, hle⟩ | ⟨r, -, hk⟩⟩ := State.onChannel_refused h
  · exact ⟨he, ha, hle⟩
  · cases hk

/-- A RECEIVE is refused only for its channel (R121). -/
theorem exec_receive_refused {s : State} {ch : Nat} {e : Refusal} (h : exec (.receive ch) s = .refused e) :
    e = .invalidChannel ∧ s.hostAccepts (.receive ch) = true ∧ s.nChannels ≤ ch := by
  obtain ⟨ha, ⟨he, hle⟩ | ⟨r, hr, -⟩⟩ := State.onChannel_refused h
  · exact ⟨he, ha, hle⟩
  · cases hq : r.rxq with
    | nil => cases (exec_receive_of_rxq_eq_nil ha hr hq).symm.trans h
    | cons w q => cases (exec_receive_of_rxq_eq_cons ha hr hq).symm.trans h

/-- A SUBMIT is refused for its channel or, on a created channel, for its flag set (R120, D32). -/
theorem exec_submit_refused {s : State} {ch : Nat} {d : Byte} {f : FlagSet} {e : Refusal}
    (h : exec (.submit ch d f) s = .refused e) : s.hostAccepts (.submit ch d f) = true ∧
      ((e = .invalidChannel ∧ s.nChannels ≤ ch) ∨ (e = .invalidFlagSet ∧ f.valid = false)) := by
  obtain ⟨ha, ⟨he, hle⟩ | ⟨r, hr, -⟩⟩ := State.onChannel_refused h
  · exact ⟨ha, .inl ⟨he, hle⟩⟩
  · refine ⟨ha, .inr ?_⟩
    cases hv : f.valid with
    | false =>
      cases (exec_submit_of_not_valid ha hr hv).symm.trans h
      exact ⟨rfl, rfl⟩
    | true =>
      obtain ⟨t, hx⟩ := exec_submit_of_valid ha hr hv
      cases hx.symm.trans h

/-- An ENCODE is refused only for its flag set (R91). -/
theorem exec_encode_refused {s : State} {d : Byte} {f : FlagSet} {e : Refusal}
    (h : exec (.encode d f) s = .refused e) : e = .invalidFlagSet ∧ f.valid = false := by
  cases hv : f.valid with
  | false =>
    cases (exec_encode_of_not_valid s d hv).symm.trans h
    exact ⟨rfl, rfl⟩
  | true => cases (exec_encode s d hv).symm.trans h

/-- Settles O22: each operation with a check, and that the others always answer. -/
theorem refusalsAreTheTwoNamedOnes : Obligations.RefusalsAreTheTwoNamedOnes := by
  intro s i e h
  have hchecks : checksOperands i = true := by
    by_contra hno
    obtain ⟨t, hx⟩ := exec_answers (Bool.eq_false_iff.mpr hno) s
    cases hx.symm.trans h
  cases i with
  | encode d f =>
    obtain ⟨he, hv⟩ := exec_encode_refused h
    obtain ⟨hack, hnack⟩ := valid_eq_false_iff.mp hv
    exact .inr ⟨he, d, f, hack, hnack, .inl rfl⟩
  | submit ch d f =>
    obtain ⟨ha, ⟨he, hle⟩ | ⟨he, hv⟩⟩ := exec_submit_refused h
    · exact .inl ⟨he, rfl, ha, ch, rfl, hle⟩
    · obtain ⟨hack, hnack⟩ := valid_eq_false_iff.mp hv
      exact .inr ⟨he, d, f, hack, hnack, .inr ⟨ch, rfl, ha⟩⟩
  | receive ch =>
    obtain ⟨he, ha, hle⟩ := exec_receive_refused h
    exact .inl ⟨he, rfl, ha, ch, rfl, hle⟩
  | bindOutboundHandler ch x =>
    obtain ⟨he, ha, hle⟩ := exec_bindOp_refused (c := .outbound) h
    exact .inl ⟨he, rfl, ha, ch, rfl, hle⟩
  | bindInboundHandler ch x =>
    obtain ⟨he, ha, hle⟩ := exec_bindOp_refused (c := .inbound) h
    exact .inl ⟨he, rfl, ha, ch, rfl, hle⟩
  | setOutboundInterrupt ch v =>
    obtain ⟨he, ha, hle⟩ := exec_setOp_refused (c := .outbound) h
    exact .inl ⟨he, rfl, ha, ch, rfl, hle⟩
  | setInboundInterrupt ch v =>
    obtain ⟨he, ha, hle⟩ := exec_setOp_refused (c := .inbound) h
    exact .inl ⟨he, rfl, ha, ch, rfl, hle⟩
  | _ => cases hchecks

/-! ### What does not happen -/

/-- The `requires` of ENGINE_GIVE as R161 words it. -/
theorem State.giveEnabled_iff {s : State} {ch : Nat} :
    s.giveEnabled ch = true ↔ ∃ r, s.row ch = some r ∧ 0 < r.owed ∧ rxRoom s.cfg r = true := by
  unfold State.giveEnabled
  cases s.row ch <;> simp

theorem State.headIs_inbound {s : State} {ch : Nat} {r : Channel} {w w' : Word} {q : List Word}
    (hr : s.row ch = some r) (hq : r.rxq = w :: q) : s.headIs .inbound ch w' = true ↔ w = w' := by
  simp [State.headIs, State.headWord, hr, hq]

/-- A SUBMIT that its queue does not let go on: the channel exists, the flags are valid, and there is no room. -/
theorem State.submitEnabled_eq_false_iff {s : State} {ch : Nat} {f : FlagSet} :
    s.submitEnabled ch f = false ↔
      ∃ r, s.row ch = some r ∧ f.valid = true ∧ s.cfg.txqDepth ≤ r.txq.length := by
  unfold State.submitEnabled
  cases s.row ch <;> simp [txReady_eq_false_iff]

theorem State.receiveEnabled_eq_false_iff {s : State} {ch : Nat} :
    s.receiveEnabled ch = false ↔ ∃ r, s.row ch = some r ∧ r.rxq = [] := by
  unfold State.receiveEnabled
  cases s.row ch <;> simp [rxReady_eq_false_iff]

/-- An operation that checks nothing and is not enabled leaves the state (R8). -/
theorem exec_of_not_enabled_of_not_checks {s : State} {i : Instr} (hi : checksOperands i = false)
    (he : s.enabled i = false) : exec i s = .next s := by
  have hne : ¬ s.enabled i = true := Bool.eq_false_iff.mp he
  obtain ⟨t, hx⟩ := exec_answers hi s
  suffices t = s by rw [hx, this]
  cases i with
  | decode w => cases he
  | createChannel p v =>
    rcases execCreateChannel_next hx with ⟨-, ht⟩ | ⟨ha, -⟩ | ⟨ha, -⟩
    · exact ht
    · exact absurd ha hne
    · exact absurd ha hne
  | describeChannels =>
    rcases execDescribeChannels_next hx with ht | ⟨ha, -⟩
    · exact ht
    · exact absurd ha hne
  | engineTake ch => exact exec_takesCommand_of_not_enabled rfl hne hx
  | engineGive ch w =>
    rcases execEngineGive_next hx with ht | ⟨r, hr, howes, hroom, -⟩
    · exact ht
    · exact absurd (State.giveEnabled_iff.mpr ⟨r, hr, howes, hroom⟩) hne
  | irqEnter b c =>
    rcases execIrqEnter_next hx with ht | ⟨x, hbound, hcan, -⟩
    · exact ht
    · exact absurd (Bool.and_eq_true_iff.mpr ⟨Option.isSome_iff_exists.mpr ⟨x, hbound⟩, hcan⟩) hne
  | irqReturn b c =>
    rcases execIrqReturn_next hx with ht | ⟨hcan, -⟩
    · exact ht
    · exact absurd hcan hne
  | cmdTx ch d st sp n => exact exec_takesCommand_of_not_enabled rfl hne hx
  | cmdRx ch d st sp n => exact exec_takesCommand_of_not_enabled rfl hne hx
  | rsp ch d n g =>
    rcases execRsp_next hx with ht | ⟨ha, r, q, hr, hq, -⟩
    · exact ht
    · exact absurd (Bool.and_eq_true_iff.mpr ⟨ha, (State.headIs_inbound hr hq).mpr rfl⟩) hne
  | _ => cases hi

/-- Settles O36: without a check there is no step, and with one the host cannot act or its queue makes it wait. -/
theorem notEnabledMeansNoStep : Obligations.NotEnabledMeansNoStep := by
  intro s i he
  cases i with
  | encode d f => cases he
  | submit ch d f =>
    cases ha : s.hostAccepts (.submit ch d f) with
    | false => exact .inl (State.onChannel_of_not_accepts ha ch _)
    | true =>
      have hwait : s.submitEnabled ch f = false := by simpa [State.enabled, ha] using he
      obtain ⟨r, hr, hv, hfull⟩ := State.submitEnabled_eq_false_iff.mp hwait
      exact .inr ⟨rfl, _, rfl, exec_submit_of_full ha hr hv hfull⟩
  | receive ch =>
    cases ha : s.hostAccepts (.receive ch) with
    | false => exact .inl (State.onChannel_of_not_accepts ha ch _)
    | true =>
      have hwait : s.receiveEnabled ch = false := by simpa [State.enabled, ha] using he
      obtain ⟨r, hr, hq⟩ := State.receiveEnabled_eq_false_iff.mp hwait
      exact .inr ⟨rfl, _, rfl, exec_receive_of_rxq_eq_nil ha hr hq⟩
  | bindOutboundHandler ch x => exact .inl (State.onChannel_of_not_accepts he ch _)
  | bindInboundHandler ch x => exact .inl (State.onChannel_of_not_accepts he ch _)
  | setOutboundInterrupt ch v => exact .inl (State.onChannel_of_not_accepts he ch _)
  | setInboundInterrupt ch v => exact .inl (State.onChannel_of_not_accepts he ch _)
  | _ => exact .inl (exec_of_not_enabled_of_not_checks rfl he)

end Sys2Proof.Machine

/-! SUPPORT. The words at the head of the two queues (43_engine_side.md R160 to R163; 41_transport.md R121, R124; log 9): a command word consumed, a response given, a response word received, and that the word instructions are ENGINE_TAKE and RECEIVE. Settles O18, O24, O25, O26 and O27. -/

namespace Sys2Proof.Machine

/-! ### A word consumed by the engine -/

theorem State.headWord_outbound_eq_some {s : State} {ch : Nat} {w : Word} :
    s.headWord .outbound ch = some w ↔ ∃ r q, s.row ch = some r ∧ r.txq = w :: q := by
  unfold State.headWord
  cases s.row ch <;> simp [List.head?_eq_some_iff]

theorem State.headWord_inbound_eq_some {s : State} {ch : Nat} {w : Word} :
    s.headWord .inbound ch = some w ↔ ∃ r q, s.row ch = some r ∧ r.rxq = w :: q := by
  unfold State.headWord
  cases s.row ch <;> simp [List.head?_eq_some_iff]

theorem State.row_takeWord_self {s : State} {ch : Nat} {r : Channel} (hr : s.row ch = some r) (w : Word)
    (q : List Word) : (s.takeWord ch r w q).row ch =
      some { r with txq := q, owed := if wordReply s.cfg w then r.owed + 1 else r.owed } :=
  State.row_setRow_self (State.lt_of_row hr) _

/-- A word instruction takes its word from the head while the engine may owe more (R160, R169, log 9). -/
theorem State.consumeCommand_of_txq_eq_cons {s : State} {ch : Nat} {r : Channel} {w : Word} {q : List Word}
    (hr : s.row ch = some r) (hq : r.txq = w :: q) (hm : mayOweMore s.cfg r.owed = true) :
    s.consumeCommand ch w = .next (s.takeWord ch r w q) := by
  simp [State.consumeCommand, hr, hq, qPop, hm]

/-- Consuming the word at the head is ENGINE_TAKE (R162, log 9). -/
theorem State.consumeCommand_eq_engineTake {s : State} {ch : Nat} {w : Word}
    (hw : s.headWord .outbound ch = some w) : s.consumeCommand ch w = execEngineTake ch s := by
  obtain ⟨r, q, hr, hq⟩ := State.headWord_outbound_eq_some.mp hw
  simp [State.consumeCommand, execEngineTake, hr, hq, qPop]

/-- Without its word at the head a word instruction of the engine has no step (log 9). -/
theorem State.consumeCommand_of_headWord_ne {s : State} {ch : Nat} {w : Word}
    (hne : s.headWord .outbound ch ≠ some w) : s.consumeCommand ch w = .next s := by
  obtain ⟨t, hx⟩ := State.consumeCommand_answers s ch w
  rcases State.consumeCommand_next hx with rfl | ⟨r, q, hr, hq, -, -⟩
  · exact hx
  · exact absurd (State.headWord_outbound_eq_some.mpr ⟨r, q, hr, hq⟩) hne

/-- A command word consumed: it is removed and returned, and a response is owed for it as its reply bit says (R164). -/
theorem State.consumeCommand_commandWord {s : State} {ch : Nat} {r : Channel} {q : List Word} (hvalid : s.cfg.Valid)
    (hr : s.row ch = some r) (hm : mayOweMore s.cfg r.owed = true) {d : Byte} {st sp reply n : Bool}
    (hq : r.txq = commandWord s.cfg d st sp reply n :: q) :
    ∃ t, s.consumeCommand ch (commandWord s.cfg d st sp reply n) = .next t ∧
      t.row ch = some { r with txq := q, owed := if reply then r.owed + 1 else r.owed } ∧
      t.result = .word (commandWord s.cfg d st sp reply n) ∧
      State.OnlyRow s t ch ∧ State.SameControl s t ∧ t.contexts = s.contexts := by
  refine ⟨_, State.consumeCommand_of_txq_eq_cons hr hq hm, ?_, rfl, State.onlyRow_of_channels_eq_set rfl,
    ⟨rfl, rfl, rfl, rfl⟩, rfl⟩
  rw [State.row_takeWord_self hr, wordReply_commandWord hvalid]

/-- Settles O25: both formats are consumed as `consumeCommand` says, told apart by the reply bit. -/
theorem commandWordsAreConsumed : Obligations.CommandWordsAreConsumed := fun _ _ _ _ _ _ =>
  ⟨fun _ _ hvalid hr hm =>
    ⟨State.consumeCommand_commandWord hvalid hr hm, State.consumeCommand_commandWord hvalid hr hm⟩,
    State.consumeCommand_of_headWord_ne, State.consumeCommand_of_headWord_ne⟩

/-- Settles O18: the held SUBMIT changes nothing, and with the head taken there is room for its word. -/
theorem takeLiftsTheHoldOfSubmit : Obligations.TakeLiftsTheHoldOfSubmit := by
  intro s ch d f r w q hf hheld hr hv hq hfull hm
  have hsame : s.hold (.submit ch d f) = s := by
    rw [State.hold, ← hheld, ContextStack.setTopHeld_topHeld]
  have haccepts : s.hostAccepts (.submit ch d f) = true := State.hostAccepts_iff.mpr ⟨hf, .inr ⟨_, hheld, rfl⟩⟩
  have hroom : q.length < s.cfg.txqDepth := by rw [← hfull, hq, List.length_cons]; exact Nat.lt_succ_self _
  have hrow := State.row_takeWord_self hr w q
  exact ⟨_, _, _, _, (exec_submit_of_full haccepts hr hv hfull.ge).trans (congrArg Host.Outcome.next hsame),
    exec_engineTake_of_txq_eq_cons hr hq hm, exec_submit_of_room haccepts hrow hv hroom,
    encodeOperands_eq_some.mpr ⟨hv, rfl⟩, State.row_withSubmitted_self hrow _, rfl, ContextStack.topHeld_setTopHeld _ _⟩

/-! ### A response given by the engine -/

/-- ENGINE_GIVE appends its draw while a response is owed and there is room for it (R161). -/
theorem exec_engineGive_of_room {s : State} {ch : Nat} {r : Channel} (hr : s.row ch = some r) (howes : 0 < r.owed)
    (hroom : rxRoom s.cfg r = true) (w : Word) : exec (.engineGive ch w) s =
      .next ((s.setRow ch { r with rxq := r.rxq ++ [w], owed := r.owed - 1 }).returning .nothing) := by
  simp [exec, execEngineGive, hr, howes, hroom, qPush]

/-- ENGINE_GIVE is never refused: it has no step where its `requires` fails. -/
theorem exec_engineGive_of_not_giveEnabled {s : State} {ch : Nat} (h : ¬ s.giveEnabled ch = true) (w : Word) :
    exec (.engineGive ch w) s = .next s :=
  exec_of_not_enabled_of_not_checks rfl (Bool.eq_false_iff.mpr h)

/-- Settles O24: the append while it is enabled, and each way its `requires` fails. -/
theorem engineGiveAppendsTheDraw : Obligations.EngineGiveAppendsTheDraw := by
  intro s ch w
  refine ⟨fun r hr howes hroom => ?given, fun hle => ?noChannel, fun r hr hno => ?noneOwedOrFull⟩
  case given =>
    exact ⟨_, exec_engineGive_of_room hr howes (rxRoom_iff.mpr hroom) w, rfl,
      State.row_setRow_self (State.lt_of_row hr) _, State.onlyRow_of_channels_eq_set rfl, ⟨rfl, rfl, rfl, rfl⟩, rfl⟩
  all_goals
    refine exec_engineGive_of_not_giveEnabled (fun he => ?_) w
    obtain ⟨r₀, hr₀, howes, hroom⟩ := State.giveEnabled_iff.mp he
  case noChannel => exact Nat.not_lt.mpr hle (State.lt_of_row hr₀)
  case noneOwedOrFull =>
    obtain rfl : r = r₀ := Option.some.inj (hr.symm.trans hr₀)
    rcases hno with hnone | hfull
    · exact Nat.ne_of_gt howes hnone
    · exact Nat.not_lt.mpr hfull (rxRoom_iff.mp hroom)

/-! ### A response word received by the host -/

/-- A response word at the head is received as RECEIVE does with it (R121, log 9). -/
theorem exec_rsp_of_rxq_eq_cons {s : State} {ch : Nat} {d : Byte} {n : Bool} {g : BitVec 24} {r : Channel}
    {q : List Word} (ha : s.hostAccepts (.rsp ch d n g) = true) (hr : s.row ch = some r)
    (hq : r.rxq = responseWord s.cfg d n g :: q) :
    exec (.rsp ch d n g) s = .next (s.receiveWord ch r (responseWord s.cfg d n g) q) := by
  simp [exec, execRsp, ha, hr, hq, qPop]

/-- Settles O26: the word is received, and its fields are decoded as they were given. -/
theorem responseWordsAreReceived : Obligations.ResponseWordsAreReceived := by
  intro s ch d n g r q hwf ha hr hq
  have hg : g.getLsbD s.cfg.rspNackBit = false := by
    simpa using (Bool.and_eq_true_iff.mp hwf).2
  refine ⟨_, exec_rsp_of_rxq_eq_cons ha hr hq, ?_, State.row_setRow_self (State.lt_of_row hr) _,
    State.onlyRow_of_channels_eq_set rfl, ⟨rfl, rfl, rfl, rfl⟩, rfl⟩
  rw [State.receiveWord_result, decodeResponseWord, wordData_responseWord, responseAck,
    getLsbD_responseWord_status d n hg]

/-! ### The word instructions are the queue operations -/

/-- A command word read at the head of its queue is executed as ENGINE_TAKE (R162). -/
theorem exec_of_decodeWord_outbound {s : State} {ch : Nat} {w : Word} {i : Instr}
    (hw : s.headWord .outbound ch = some w) (hi : decodeWord s.cfg .outbound ch w = .ok i) :
    exec i s = exec (.engineTake ch) s := by
  have htake := State.consumeCommand_eq_engineTake hw
  obtain ⟨d, st, sp, n, rfl, rfl⟩ | ⟨d, st, sp, n, rfl, rfl⟩ := decodeWord_outbound_eq_ok hi
  · exact htake
  · exact htake

/-- A response word read at the head of its queue is executed as RECEIVE (log 9). -/
theorem exec_of_decodeWord_inbound {s : State} {ch : Nat} {w : Word} {i : Instr}
    (hw : s.headWord .inbound ch = some w) (hi : decodeWord s.cfg .inbound ch w = .ok i) :
    exec i s = exec (.receive ch) s := by
  obtain ⟨r, q, hr, hq⟩ := State.headWord_inbound_eq_some.mp hw
  have hfields := responseWord_of_fields s.cfg w
  cases hi
  cases ha : s.hostAccepts (.receive ch) with
  | true =>
    rw [exec_receive_of_rxq_eq_cons ha hr hq, decodeResponse, exec_rsp_of_rxq_eq_cons ha hr (hfields.symm ▸ hq),
      hfields]
  | false =>
    have hrsp : exec (decodeResponse s.cfg ch w) s = .next s := if_neg (Bool.eq_false_iff.mp ha)
    rw [hrsp]
    exact (State.onChannel_of_not_accepts ha ch _).symm

/-- Settles O27: the two queues, each by its own operation. -/
theorem queueOperationsExecuteTheirWords : Obligations.QueueOperationsExecuteTheirWords :=
  fun _ _ _ _ _ => ⟨exec_of_decodeWord_outbound, exec_of_decodeWord_inbound⟩

end Sys2Proof.Machine

/-! SUPPORT. Locality of the engines (20_memory.md R50, 43_engine_side.md R166, R167): a step of Engine(ch) is a write of its own row that is read off that row and the parameters. Settles O29 and O30. -/

namespace Sys2Proof.Machine

/-- What an engine step leaves: nothing changed, or its row written and a result recorded. -/
def State.afterEngine (s : State) (ch : Nat) : Option (Channel × OpResult) → State
  | none => s
  | some (r, x) => (s.setRow ch r).returning x

@[simp] theorem State.afterEngine_cfg (s : State) (ch : Nat) (o : Option (Channel × OpResult)) :
    (s.afterEngine ch o).cfg = s.cfg := by cases o <;> rfl
@[simp] theorem State.afterEngine_contexts (s : State) (ch : Nat) (o : Option (Channel × OpResult)) :
    (s.afterEngine ch o).contexts = s.contexts := by cases o <;> rfl

theorem State.sameControl_afterEngine (s : State) (ch : Nat) (o : Option (Channel × OpResult)) :
    State.SameControl s (s.afterEngine ch o) := by
  cases o <;> exact ⟨rfl, rfl, rfl, rfl⟩

theorem State.row_afterEngine_of_ne (s : State) {ch ch' : Nat} (hne : ch' ≠ ch) (o : Option (Channel × OpResult)) :
    (s.afterEngine ch o).row ch' = s.row ch' := by
  cases o with
  | none => rfl
  | some p => exact State.row_setRow_of_ne s hne p.1

/-- Writes of two rows can be exchanged. -/
theorem State.channels_afterEngine_comm (s : State) {a b : Nat} (hne : a ≠ b) (o p : Option (Channel × OpResult)) :
    ((s.afterEngine b p).afterEngine a o).channels = ((s.afterEngine a o).afterEngine b p).channels := by
  cases o with
  | none => cases p <;> rfl
  | some x =>
    cases p with
    | none => rfl
    | some y => exact List.set_comm y.1 x.1 hne.symm

theorem checksOperands_of_engineChannel {i : Instr} {ch : Nat} (h : engineChannel i = some ch) :
    checksOperands i = false := by
  cases i with
  | engineTake | engineGive | cmdTx | cmdRx => rfl
  | _ => cases h

/-- An engine takes a command word or gives a response (R162). -/
theorem takesCommand_or_engineGive {i : Instr} {ch : Nat} (h : engineChannel i = some ch) :
    takesCommand i = some ch ∨ ∃ w, i = .engineGive ch w := by
  cases i with
  | engineTake | cmdTx | cmdRx => exact .inl h
  | engineGive ch' w =>
    cases h
    exact .inr ⟨w, rfl⟩
  | _ => cases h

/-- A step of Engine(ch) writes the same into every state with these parameters and this row. -/
theorem exec_engine_local (s : State) {i : Instr} {ch : Nat} (hi : engineChannel i = some ch) :
    ∃ o, ∀ t : State, t.cfg = s.cfg → t.row ch = s.row ch → exec i t = .next (t.afterEngine ch o) := by
  have hcongr {t : State} (hcfg : t.cfg = s.cfg) (hrow : t.row ch = s.row ch) : t.enabled i = s.enabled i :=
    State.enabled_congr_of_engineChannel hcfg hrow hi
  cases he : s.enabled i with
  | false =>
    exact ⟨none, fun t hcfg hrow => exec_of_not_enabled_of_not_checks (checksOperands_of_engineChannel hi)
      ((hcongr hcfg hrow).trans he)⟩
  | true =>
    rcases takesCommand_or_engineGive hi with htakes | ⟨w, rfl⟩
    · obtain ⟨r, w, q, hr, hq, -⟩ := exec_takesCommand_of_enabled htakes he
      refine ⟨some ({ r with txq := q, owed := if wordReply s.cfg w then r.owed + 1 else r.owed }, .word w),
        fun t hcfg hrow => ?_⟩
      obtain ⟨r', w', q', hr', hq', hx⟩ := exec_takesCommand_of_enabled htakes ((hcongr hcfg hrow).trans he)
      obtain rfl : r' = r := Option.some.inj (hr'.symm.trans (hrow.trans hr))
      obtain ⟨rfl, rfl⟩ := List.cons.inj (hq'.symm.trans hq)
      rw [hx, State.takeWord, hcfg]
      rfl
    · obtain ⟨r, hr, howes, hroom⟩ := State.giveEnabled_iff.mp he
      exact ⟨some ({ r with rxq := r.rxq ++ [w], owed := r.owed - 1 }, .nothing), fun t hcfg hrow =>
        exec_engineGive_of_room (hrow.trans hr) howes (hcfg ▸ hroom) w⟩

/-- An engine step leaves the record and the enables, takes from the front of `txq` and adds to the end of `rxq`. -/
theorem RowWrite.of_engine {s : State} {ch : Nat} {r r' : Channel} {i : Instr} (h : RowWrite s ch r i r')
    (hi : engineChannel i = some ch) : r'.info = r.info ∧ r'.outEn = r.outEn ∧ r'.inEn = r.inEn ∧
      r'.txq <:+ r.txq ∧ r.rxq <+: r'.rxq := by
  cases h with
  | take i w q takes head limit => exact ⟨rfl, rfl, rfl, head ▸ List.suffix_cons w q, List.prefix_refl _⟩
  | give w owes room => exact ⟨rfl, rfl, rfl, List.suffix_refl _, List.prefix_append _ _⟩
  | bind c x => cases c <;> cases hi
  | set c v => cases c <;> cases hi
  | _ => cases hi

/-- Settles O29: the frame of `afterEngine`, and the two ways an engine writes its row. -/
theorem engineTouchesOnlyTheQueues : Obligations.EngineTouchesOnlyTheQueues := by
  intro s t a i hi h
  obtain ⟨o, ho⟩ := exec_engine_local s hi
  obtain rfl : s.afterEngine a o = t := Host.Outcome.next.inj ((ho s rfl rfl).symm.trans h)
  refine ⟨State.sameControl_afterEngine s a o, State.afterEngine_contexts s a o,
    exec_onlyRow_of_namedChannel (namedChannel_of_engineChannel hi) h, fun r hr => ?_⟩
  obtain ⟨r', hr', rfl | hw⟩ := exec_row h hr
  · exact ⟨r', hr', rfl, rfl, rfl, List.suffix_refl _, List.prefix_refl _⟩
  · exact ⟨r', hr', hw.of_engine hi⟩

/-- Settles O30: each engine writes the same row whether it moves first or second, and the two rows differ. -/
theorem engineStepsCommute : Obligations.EngineStepsCommute := by
  intro s t u a b i j hi hj hne ht hu
  obtain ⟨o, ho⟩ := exec_engine_local s hi
  obtain ⟨p, hp⟩ := exec_engine_local s hj
  obtain rfl : s.afterEngine a o = t := Host.Outcome.next.inj ((ho s rfl rfl).symm.trans ht)
  have hsecond : exec j (s.afterEngine a o) = .next ((s.afterEngine a o).afterEngine b p) :=
    hp _ (State.afterEngine_cfg s a o) (State.row_afterEngine_of_ne s hne.symm o)
  obtain rfl : (s.afterEngine a o).afterEngine b p = u := Host.Outcome.next.inj (hsecond.symm.trans hu)
  refine ⟨s.afterEngine b p, (s.afterEngine b p).afterEngine a o, hp s rfl rfl,
    ho _ (State.afterEngine_cfg s b p) (State.row_afterEngine_of_ne s hne p),
    State.channels_afterEngine_comm s hne o p, ?_, by simp⟩
  cases o <;> cases p <;> exact ⟨rfl, rfl, rfl, rfl⟩

end Sys2Proof.Machine

/-! SUPPORT. Delivery of responses (20_memory.md R49, 43_engine_side.md R164): which operations change `rxq[ch]` and the owed count, what each of them shows there, and over any run that what was received answers what was given, and what was given the read commands taken. Settles O50. -/

namespace Sys2Proof.Machine

/-! ### What an operation observes of `rxq[ch]` -/

/-- `receivedFrom` in terms of `heldOpOf`: RECEIVE and the word it receives are treated alike (log 9). -/
theorem receivedFrom_eq (ch : Nat) (i : Instr) (s : State) : receivedFrom ch i s =
    if heldOpOf i = some (.receive ch) ∧ s.enabled i = true then returnedPair i s else [] := by
  cases i <;> simp [receivedFrom, heldOpOf]

theorem receivedFrom_eq_nil {ch : Nat} {i : Instr} (s : State) (hi : heldOpOf i ≠ some (.receive ch)) :
    receivedFrom ch i s = [] := by
  simp [receivedFrom_eq, hi]

theorem givenTo_eq_nil {ch : Nat} {i : Instr} (s : State) (hi : ∀ w, i ≠ .engineGive ch w) :
    givenTo ch i s = [] := by
  cases i with
  | engineGive ch' w => exact if_neg fun h => hi w (by rw [h.1])
  | _ => rfl

/-- The operations that receive from `rxq[ch]`. -/
theorem receive_or_rsp {i : Instr} {ch : Nat} (hi : heldOpOf i = some (.receive ch)) :
    i = .receive ch ∨ ∃ d n g, i = .rsp ch d n g := by
  cases i with
  | receive ch' =>
    cases hi
    exact .inl rfl
  | rsp ch' d n g =>
    cases hi
    exact .inr ⟨d, n, g, rfl⟩
  | _ => cases hi

/-! ### One operation -/

/-- An enabled operation that receives takes the oldest response of its channel (R121, log 9). -/
theorem exec_receives_of_enabled {s : State} {i : Instr} {ch : Nat} {r : Channel}
    (hi : heldOpOf i = some (.receive ch)) (he : s.enabled i = true) (hr : s.row ch = some r) :
    ∃ w q, r.rxq = w :: q ∧ exec i s = .next (s.receiveWord ch r w q) := by
  obtain rfl | ⟨d, n, g, rfl⟩ := receive_or_rsp hi
  · obtain ⟨ha, hready⟩ := Bool.and_eq_true_iff.mp he
    have hne : r.rxq ≠ [] := rxReady_iff.mp (by simpa [State.receiveEnabled, hr] using hready)
    obtain ⟨w, q, hq⟩ := List.exists_cons_of_ne_nil hne
    exact ⟨w, q, hq, exec_receive_of_rxq_eq_cons ha hr hq⟩
  · obtain ⟨ha, hhead⟩ := Bool.and_eq_true_iff.mp he
    obtain ⟨r₀, q, hr₀, hq⟩ := State.headWord_inbound_eq_some.mp (beq_iff_eq.mp hhead)
    obtain rfl : r₀ = r := Option.some.inj (hr₀.symm.trans hr)
    exact ⟨_, q, hq, exec_rsp_of_rxq_eq_cons ha hr hq⟩

/-- An operation that is not enabled writes nothing of the channel table: it has no step, or it waits (R8). -/
theorem exec_channels_of_not_enabled {s t : State} {i : Instr} (he : s.enabled i = false) (h : exec i s = .next t) :
    t.channels = s.channels := by
  rcases notEnabledMeansNoStep s i he with hx | ⟨-, x, -, hx⟩
  · rw [Host.Outcome.next.inj (h.symm.trans hx)]
  · rw [Host.Outcome.next.inj (h.symm.trans hx), State.hold_channels]

/-- A receiving operation removes from the front of `rxq[ch]` the word whose decoding it shows, if it has a step. -/
theorem exec_receives_rxq {s t : State} {i : Instr} {ch : Nat} {r : Channel} (hi : heldOpOf i = some (.receive ch))
    (h : exec i s = .next t) (hr : s.row ch = some r) :
    ∃ r', t.row ch = some r' ∧ r'.owed = r.owed ∧
      r.rxq.map (decodeResponseWord s.cfg) = receivedFrom ch i s ++ r'.rxq.map (decodeResponseWord s.cfg) := by
  rw [receivedFrom_eq]
  cases he : s.enabled i with
  | true =>
    obtain ⟨w, q, hq, hx⟩ := exec_receives_of_enabled hi he hr
    obtain rfl : s.receiveWord ch r w q = t := Host.Outcome.next.inj (hx.symm.trans h)
    exact ⟨_, State.row_setRow_self (State.lt_of_row hr) _, rfl, by simp [hi, returnedPair, hx, hq]⟩
  | false =>
    exact ⟨r, (State.row_congr (exec_channels_of_not_enabled he h) ch).trans hr, rfl, by simp⟩

/-- ENGINE_GIVE appends to `rxq[ch]` what it shows, and owes as many responses less (R161). -/
theorem exec_engineGive_rxq {s t : State} {ch : Nat} {w : Word} {r : Channel}
    (h : exec (.engineGive ch w) s = .next t) (hr : s.row ch = some r) :
    ∃ r', t.row ch = some r' ∧ r'.rxq = r.rxq ++ givenTo ch (.engineGive ch w) s ∧
      r.owed = r'.owed + (givenTo ch (.engineGive ch w) s).length := by
  cases he : s.giveEnabled ch with
  | true =>
    obtain ⟨r₀, hr₀, howes, hroom⟩ := State.giveEnabled_iff.mp he
    obtain rfl : r₀ = r := Option.some.inj (hr₀.symm.trans hr)
    have hshown : givenTo ch (.engineGive ch w) s = [w] := if_pos ⟨rfl, he⟩
    obtain rfl := Host.Outcome.next.inj ((exec_engineGive_of_room hr howes hroom w).symm.trans h)
    exact ⟨_, State.row_setRow_self (State.lt_of_row hr) _, by rw [hshown],
      by rw [hshown]; exact (Nat.sub_add_cancel howes).symm⟩
  | false =>
    have hshown : givenTo ch (.engineGive ch w) s = [] := if_neg fun h => Bool.eq_false_iff.mp he h.2
    obtain rfl := Host.Outcome.next.inj
      ((exec_engineGive_of_not_giveEnabled (Bool.eq_false_iff.mp he) w).symm.trans h)
    exact ⟨r, hr, by rw [hshown, List.append_nil], by rw [hshown]; rfl⟩

/-- A taking operation owes one response for each read command it shows (R160, R164, D20). -/
theorem exec_takesCommand_owed {s t : State} {i : Instr} {ch : Nat} {r : Channel} (hi : takesCommand i = some ch)
    (h : exec i s = .next t) (hr : s.row ch = some r) :
    ∃ r', t.row ch = some r' ∧ r'.rxq = r.rxq ∧
      r.owed + ((takenFrom ch i s).filter (wordReply s.cfg)).length = r'.owed := by
  rw [takenFrom_eq]
  by_cases he : s.enabled i = true
  · obtain ⟨r₀, w, q, hr₀, hq, hx⟩ := exec_takesCommand_of_enabled hi he
    obtain rfl : r₀ = r := Option.some.inj (hr₀.symm.trans hr)
    obtain rfl : s.takeWord ch r₀ w q = t := Host.Outcome.next.inj (hx.symm.trans h)
    refine ⟨_, State.row_takeWord_self hr w q, rfl, ?_⟩
    cases hw : wordReply s.cfg w <;> simp [hi, he, returnedWord, hx, hw]
  · obtain rfl := exec_takesCommand_of_not_enabled hi he h
    exact ⟨r, hr, rfl, by simp [he]⟩

/-- R15, R20: `rxq[ch]` and the owed count are written only by what receives from it, gives to it, or takes a command
of the channel. -/
theorem RowWrite.rxq_owed {s : State} {ch : Nat} {r r' : Channel} {i : Instr} (h : RowWrite s ch r i r')
    (hreceives : heldOpOf i ≠ some (.receive ch)) (hgives : ∀ w, i ≠ .engineGive ch w)
    (htakes : takesCommand i ≠ some ch) : r'.rxq = r.rxq ∧ r'.owed = r.owed := by
  cases h with
  | receive => exact absurd rfl hreceives
  | rsp => exact absurd rfl hreceives
  | give w => exact absurd rfl (hgives w)
  | take i w q takes => exact absurd takes htakes
  | set c v => cases c <;> exact ⟨rfl, rfl⟩
  | _ => exact ⟨rfl, rfl⟩

/-- One operation, whoever performs it: what was in `rxq[ch]` and what it gives there decode to what it receives and
what is left, and the responses owed and given balance with the read commands it takes. -/
theorem exec_rxq {s t : State} {i : Instr} {ch : Nat} {r : Channel} (h : exec i s = .next t)
    (hr : s.row ch = some r) :
    ∃ r', t.row ch = some r' ∧
      (r.rxq ++ givenTo ch i s).map (decodeResponseWord s.cfg) =
        receivedFrom ch i s ++ r'.rxq.map (decodeResponseWord s.cfg) ∧
      r.owed + ((takenFrom ch i s).filter (wordReply s.cfg)).length = r'.owed + (givenTo ch i s).length := by
  by_cases hgives : ∃ w, i = .engineGive ch w
  · obtain ⟨w, rfl⟩ := hgives
    obtain ⟨r', hr', hq, howed⟩ := exec_engineGive_rxq h hr
    exact ⟨r', hr', by rw [hq]; rfl, howed⟩
  push Not at hgives
  rw [givenTo_eq_nil s hgives, List.append_nil]
  by_cases hreceives : heldOpOf i = some (.receive ch)
  · obtain ⟨r', hr', howed, hq⟩ := exec_receives_rxq hreceives h hr
    have htakes : takesCommand i ≠ some ch := by
      obtain rfl | ⟨d, n, g, rfl⟩ := receive_or_rsp hreceives <;> nofun
    exact ⟨r', hr', hq, by rw [takenFrom_eq_nil s htakes, howed]; rfl⟩
  rw [receivedFrom_eq_nil s hreceives]
  by_cases htakes : takesCommand i = some ch
  · obtain ⟨r', hr', hq, howed⟩ := exec_takesCommand_owed htakes h hr
    exact ⟨r', hr', by rw [hq]; rfl, howed⟩
  rw [takenFrom_eq_nil s htakes]
  obtain ⟨r', hr', rfl | hw⟩ := exec_row h hr
  · exact ⟨r', hr', rfl, rfl⟩
  · obtain ⟨hq, howed⟩ := hw.rxq_owed hreceives hgives htakes
    exact ⟨r', hr', by rw [hq]; rfl, by rw [howed]; rfl⟩

/-! ### A run -/

/-- Settles O50: by induction on the run, each operation by `exec_rxq`. -/
theorem responsesAnswerReadCommandsInOrder : Obligations.ResponsesAnswerReadCommandsInOrder := by
  intro ops
  induction ops with
  | nil =>
    intro s t ch r hrun hr
    obtain rfl : s = t := Option.some.inj hrun
    exact ⟨r, hr, by simp [collect], rfl⟩
  | cons i is ih =>
    intro s t ch r hrun hr
    obtain ⟨u, hx, hrest⟩ := runOps_cons_eq_some.mp hrun
    obtain ⟨r₁, hr₁, hstep, howed₁⟩ := exec_rxq hx hr
    obtain ⟨r', hr', htail, howed'⟩ := ih u t ch r₁ hrest hr₁
    rw [(exec_table hx).1] at htail howed'
    simp only [collect_cons _ hx]
    refine ⟨r', hr', ?_, ?_⟩
    · calc (r.rxq ++ (givenTo ch i s ++ collect (givenTo ch) is u)).map (decodeResponseWord s.cfg)
          = (r.rxq ++ givenTo ch i s).map (decodeResponseWord s.cfg) ++
              (collect (givenTo ch) is u).map (decodeResponseWord s.cfg) := by
            rw [← List.append_assoc, List.map_append]
        _ = receivedFrom ch i s ++ (r₁.rxq ++ collect (givenTo ch) is u).map (decodeResponseWord s.cfg) := by
            rw [hstep, List.append_assoc, List.map_append]
        _ = receivedFrom ch i s ++ collect (receivedFrom ch) is u ++ r'.rxq.map (decodeResponseWord s.cfg) := by
            rw [htail, List.append_assoc]
    · rw [List.filter_append, List.length_append, List.length_append]
      omega

end Sys2Proof.Machine

/-! SUPPORT. A channel with nothing to come (70_reset_and_hazards.md R273): nothing received, owed or queued to be read stays so until a read command is submitted. Settles O51. -/

namespace Sys2Proof.Machine

/-- Nothing is received, owed or queued to be read on the channel (R273). -/
structure Channel.NothingToCome (c : Config) (r : Channel) : Prop where
  rxq_nil : r.rxq = []
  owed_zero : r.owed = 0
  no_read : ∀ w ∈ r.txq, wordReply c w = false

/-- Only a SUBMIT of a read command to the channel lets a response come. -/
theorem RowWrite.nothingToCome {s : State} {ch : Nat} {r r' : Channel} {i : Instr} (h : RowWrite s ch r i r')
    (hc : s.cfg.Valid) (hi : submitsRead ch i = false) (hr : r.NothingToCome s.cfg) :
    r'.NothingToCome s.cfg := by
  obtain ⟨hrxq, howed, hread⟩ := hr
  cases h with
  | submit d f valid room =>
    have hreply : f.reply = false := by simpa [submitsRead] using hi
    refine ⟨hrxq, howed, fun w hw => ?_⟩
    rcases List.mem_append.mp hw with hold | hnew
    · exact hread w hold
    · rw [List.mem_singleton.mp hnew, wordReply_commandWord hc, hreply]
  | receive w q head => cases hrxq.symm.trans head
  | rsp d n g q head => cases hrxq.symm.trans head
  | bind c x => exact ⟨hrxq, howed, hread⟩
  | set c v => cases c <;> exact ⟨hrxq, howed, hread⟩
  | take i w q takes head limit =>
    rw [head] at hread
    obtain ⟨hw, hq⟩ := List.forall_mem_cons.mp hread
    exact ⟨hrxq, by simp [hw, howed], hq⟩
  | give w owes => exact absurd howed (Nat.ne_of_gt owes)

/-- An operation other than such a SUBMIT keeps it. -/
theorem exec_nothingToCome {s t : State} {i : Instr} {ch : Nat} {r : Channel} (hc : s.cfg.Valid)
    (h : exec i s = .next t) (hi : submitsRead ch i = false) (hr : s.row ch = some r)
    (hnone : r.NothingToCome s.cfg) : ∃ r', t.row ch = some r' ∧ r'.NothingToCome t.cfg := by
  rw [(exec_table h).1]
  obtain ⟨r', hr', rfl | hw⟩ := exec_row h hr
  · exact ⟨r', hr', hnone⟩
  · exact ⟨r', hr', hw.nothingToCome hc hi hnone⟩

/-- A run without such a SUBMIT keeps it. -/
theorem runOps_nothingToCome {ops : List Instr} {s t : State} {ch : Nat} {r : Channel} (hc : s.cfg.Valid)
    (hrun : runOps ops s = some t) (hops : ∀ i ∈ ops, submitsRead ch i = false) (hr : s.row ch = some r)
    (hnone : r.NothingToCome s.cfg) : ∃ r', t.row ch = some r' ∧ r'.NothingToCome t.cfg := by
  induction ops generalizing s r with
  | nil =>
    obtain rfl : s = t := Option.some.inj hrun
    exact ⟨r, hr, hnone⟩
  | cons i is ih =>
    obtain ⟨hi, his⟩ := List.forall_mem_cons.mp hops
    obtain ⟨u, hx, hrest⟩ := runOps_cons_eq_some.mp hrun
    obtain ⟨r₁, hr₁, hnone₁⟩ := exec_nothingToCome hc hx hi hr hnone
    exact ih ((exec_table hx).1.symm ▸ hc) hrest his hr₁ hnone₁

/-- Settles O51: the run keeps `NothingToCome`, with which neither RECEIVE nor ENGINE_GIVE is enabled. -/
theorem receiveWithNothingOwedNeverReturns : Obligations.ReceiveWithNothingOwedNeverReturns := by
  intro ops s t ch r hc hrun hr hrxq howed hread hops
  obtain ⟨r', hr', hrxq', howed', -⟩ := runOps_nothingToCome hc hrun hops hr ⟨hrxq, howed, hread⟩
  have hreceive : t.receiveEnabled ch = false := State.receiveEnabled_eq_false_iff.mpr ⟨r', hr', hrxq'⟩
  refine ⟨by rw [State.enabled, hreceive, Bool.and_false], fun w => Bool.eq_false_iff.mpr fun hgive => ?_⟩
  obtain ⟨r₀, hr₀, howes, -⟩ := State.giveEnabled_iff.mp hgive
  obtain rfl : r' = r₀ := Option.some.inj (hr'.symm.trans hr₀)
  exact Nat.ne_of_gt howes howed'

end Sys2Proof.Machine

/-! SUPPORT. The dispatcher (60_exceptions.md R221 to R226, 42_interrupt_control.md R149): the conditions of IRQ_ENTER and IRQ_RETURN one by one, and what either answers with them and without them. Settles O31, O32, O33, O34 and O35. -/

namespace Sys2Proof.Machine

/-! ### The conditions -/

/-- `may_preempt` as R226 words it: the foreground always, a handler as the parameter says. -/
theorem mayPreempt_iff {c : Config} {k : Ctx} {id : IrqId} :
    mayPreempt c k id = true ↔ k = .foreground ∨ ∃ o, k = .irq o ∧ (o, id) ∈ c.preempt := by
  cases k <;> simp [mayPreempt]

/-- The `requires` of IRQ_ENTER but for the bound handler, as R222 words it. -/
theorem State.canEnter_iff {s : State} {id : IrqId} :
    s.canEnter id = true ↔ s.fatal = none ∧ id.block ∈ s.cfg.irqBlocks ∧ s.irqReq id = true ∧
      s.inService id = false ∧ mayPreempt s.cfg s.contexts.top id = true := by
  simp [State.canEnter, and_assoc]

/-- The `requires` of IRQ_RETURN as R224 words it. -/
theorem State.canReturn_iff {s : State} {id : IrqId} :
    s.canReturn id = true ↔ s.fatal = none ∧ s.contexts.top = .irq id ∧ s.contexts.topHeld = none := by
  simp [State.canReturn, and_assoc]

/-! ### The slot a handler is entered in -/

/-- A bound handler has its slot (R17). -/
theorem State.slot_isSome_of_handler {s : State} {id : IrqId} {h : HandlerRef} (hb : s.handler id = some h) :
    (s.slot id).isSome = true := by
  obtain ⟨x, hx, -⟩ := Option.bind_eq_some_iff.mp hb
  rw [hx, Option.isSome_some]

theorem State.inService_setInService_of_ne {s : State} {id id' : IrqId} (hne : id' ≠ id) (v : Bool) :
    (s.setInService id v).inService id' = s.inService id' := by
  rw [State.inService_setInService, if_neg fun h => hne h.1]

theorem State.inService_setInService_self {s : State} {id : IrqId} (hslot : (s.slot id).isSome = true) (v : Bool) :
    (s.setInService id v).inService id = v := by
  rw [State.inService_setInService, if_pos ⟨rfl, hslot⟩]

/-- A cleared bit is clear, and without a slot there is none (R18). -/
theorem State.inService_setInService_false (s : State) (id : IrqId) :
    (s.setInService id false).inService id = false := by
  cases hslot : s.slot id with
  | none => rw [State.inService_setInService, hslot, if_neg (by simp), State.inService, hslot]
  | some x => exact State.inService_setInService_self (by rw [hslot, Option.isSome_some]) false

/-! ### IRQ_ENTER -/

theorem exec_irqEnter_of_canEnter {s : State} {b : Nat} {c : IrqClass} {h : HandlerRef}
    (hb : s.handler ⟨b, c⟩ = some h) (hcan : s.canEnter ⟨b, c⟩ = true) :
    exec (.irqEnter b c) s = .next (s.enterHandler ⟨b, c⟩ h) := by
  simp [exec, execIrqEnter, hb, hcan]

/-- Without one of its conditions IRQ_ENTER does not happen, whatever is bound. -/
theorem exec_irqEnter_of_not_canEnter {s : State} {b : Nat} {c : IrqClass} (hcan : ¬ s.canEnter ⟨b, c⟩ = true) :
    exec (.irqEnter b c) s = .next s :=
  exec_of_not_enabled_of_not_checks rfl (by rw [State.enabled, Bool.eq_false_iff.mpr hcan, Bool.and_false])

/-- Settles O31: the state `enterHandler` makes, whose slot exists because a handler is bound in it. -/
theorem irqEnterInvokesTheHandler : Obligations.IrqEnterInvokesTheHandler := by
  intro s b c h hf hblock hbound hreq hidle hpreempt
  have hcan : s.canEnter ⟨b, c⟩ = true := State.canEnter_iff.mpr ⟨hf, hblock, hreq, hidle, hpreempt⟩
  refine ⟨_, exec_irqEnter_of_canEnter hbound hcan, ?_, fun id hne => ?_, fun id => ?_, rfl, rfl, rfl, rfl, rfl, rfl,
    rfl, rfl⟩
  · exact State.inService_setInService_self (State.slot_isSome_of_handler hbound) true
  · exact State.inService_setInService_of_ne hne true
  · exact State.handler_setInService s _ id true

/-- Settles O32: an IRQ_ENTER that changes something passed the look-up of the handler and `canEnter`. -/
theorem irqEnterNeedsEveryCondition : Obligations.IrqEnterNeedsEveryCondition := by
  intro s t b c hx hne
  rcases execIrqEnter_next hx with rfl | ⟨h, hbound, hcan, -⟩
  · exact absurd rfl hne
  · obtain ⟨hf, hblock, hreq, hidle, hpreempt⟩ := State.canEnter_iff.mp hcan
    exact ⟨hf, hblock, ⟨h, hbound⟩, hreq, hidle, mayPreempt_iff.mp hpreempt⟩

/-! ### IRQ_RETURN -/

theorem exec_irqReturn_of_canReturn {s : State} {b : Nat} {c : IrqClass} (hcan : s.canReturn ⟨b, c⟩ = true) :
    exec (.irqReturn b c) s = .next (s.returnHandler ⟨b, c⟩) :=
  if_pos hcan

/-- Settles O33: the state `returnHandler` makes, and that without `canReturn` there is no step. -/
theorem irqReturnResumesTheContextBelow : Obligations.IrqReturnResumesTheContextBelow := by
  intro s b c
  constructor
  · intro hf htop hidle
    refine ⟨_, exec_irqReturn_of_canReturn (State.canReturn_iff.mpr ⟨hf, htop, hidle⟩), ?_, fun id hne => ?_,
      fun id => ?_, rfl, rfl, rfl, rfl, rfl, rfl, rfl⟩
    · exact State.inService_setInService_false s _
    · exact State.inService_setInService_of_ne hne false
    · exact State.handler_setInService s _ id false
  · intro hno
    refine exec_of_not_enabled_of_not_checks rfl (Bool.eq_false_iff.mpr fun hcan => ?_)
    obtain ⟨hf, htop, hidle⟩ := State.canReturn_iff.mp hcan
    rcases hno with h | h | h
    · exact h hf
    · exact h htop
    · exact h hidle

/-! ### Arming and disarming -/

/-- A set the host can perform writes the one enable (R142, R143). -/
theorem exec_setOp_of_row {s : State} {c : IrqClass} {ch : Nat} {v : Bool} {r : Channel}
    (ha : s.hostAccepts (setOp c ch v) = true) (hr : s.row ch = some r) :
    exec (setOp c ch v) s = .next ((s.setRow ch (r.withEnabled c v)).returning .nothing) := by
  rw [exec_setOp, State.onChannel_row ha hr]

/-- Settles O34: the armed and ready channel requests in the state the set makes, where nothing else has changed. -/
theorem armingMayFireAtOnce : Obligations.ArmingMayFireAtOnce := by
  intro s c ch r h hf hctx hr hready hblock hbound hidle
  have ha : s.hostAccepts (setOp c ch true) = true := State.hostAccepts_of_idle hf (by rw [hctx]; rfl) _
  have hreq : (s.setRow ch (r.withEnabled c true)).irqReq ⟨r.info.block, c⟩ = true :=
    (State.irqReq_setRow_withEnabled_iff hr).mpr (.inl ⟨rfl, hready⟩)
  have htop : s.contexts.top = .foreground := by rw [hctx]; rfl
  exact ⟨_, _, exec_setOp_of_row ha hr,
    exec_irqEnter_of_canEnter (s := (s.setRow ch (r.withEnabled c true)).returning .nothing) hbound
      (State.canEnter_iff.mpr ⟨hf, hblock, hreq, hidle, mayPreempt_iff.mpr (.inl htop)⟩), rfl, rfl⟩

/-- Settles O35: with the one requesting channel disarmed the request is gone, and IRQ_ENTER needs it. -/
theorem disarmingStopsNewEntries : Obligations.DisarmingStopsNewEntries := by
  intro s t c ch r ha hr hothers hx
  obtain rfl := Host.Outcome.next.inj ((exec_setOp_of_row ha hr).symm.trans hx)
  refine ⟨exec_irqEnter_of_not_canEnter fun hcan => ?_, fun id => State.inService_congr rfl id⟩
  obtain ⟨-, -, hreq, -⟩ := State.canEnter_iff.mp hcan
  rcases (State.irqReq_setRow_withEnabled_iff hr).mp hreq with ⟨harmed, -⟩ | ⟨ch', r', hne, hr', hb, hreq'⟩
  · cases harmed
  · exact Bool.false_ne_true ((hothers ch' r' hne hr' hb).symm.trans hreq')

end Sys2Proof.Machine

/-! SUPPORT. How an operation changes the slots and the fatal latch (10_state.md R17 to R19, R24; 60_exceptions.md R213), and with the changes of the channel table and of the contexts what each operation may write. Settles O46, O47 and O48. -/

namespace Sys2Proof.Machine

/-! ### The slots and the latch -/

/-- The two operations that can raise a fatal error (R19, R210 to R212). -/
def CanRaise (i : Instr) : Prop := (∃ p v, i = .createChannel p v) ∨ ∃ c ch x, i = bindOp c ch x

/-- What an operation may make of the slots and the fatal latch: nothing new, the latch set by an operation that can
raise, a free slot bound, or the one bit of the handler entered or left written (R24). -/
inductive ControlChange (s : State) : Instr → List IrqBlock → Option FatalReason → Prop
  | same (i : Instr) : ControlChange s i s.irqBlocks s.fatal
  | raised (i : Instr) (e : FatalReason) (op : CanRaise i) (live : s.fatal = none) :
    ControlChange s i s.irqBlocks (some e)
  | bound (ch : Nat) (id : IrqId) (x : HandlerRef) (free : s.handler id = none) :
    ControlChange s (bindOp id.cls ch x) (s.bindSlot id x).irqBlocks s.fatal
  | entered (b : Nat) (c : IrqClass) :
    ControlChange s (.irqEnter b c) (s.setInService ⟨b, c⟩ true).irqBlocks s.fatal
  | returned (b : Nat) (c : IrqClass) :
    ControlChange s (.irqReturn b c) (s.setInService ⟨b, c⟩ false).irqBlocks s.fatal

/-- A raised error is the latch's value, for the host program had not ended (R213). -/
theorem ControlChange.of_raiseFatal {s : State} {i j : Instr} (ha : s.hostAccepts j = true) (op : CanRaise i)
    (e : FatalReason) : ControlChange s i (s.raiseFatal e).irqBlocks (s.raiseFatal e).fatal := by
  obtain ⟨live, -⟩ := State.hostAccepts_iff.mp ha
  rw [State.raiseFatal_of_none live]
  exact .raised i e op live

/-- The binds share their body, so they change the slots and the latch in one way. -/
theorem State.bindHandler_control {s t : State} {ch : Nat} {r : Channel} {c : IrqClass} {x : HandlerRef}
    (ha : s.hostAccepts (bindOp c ch x) = true) (h : s.bindHandler ch r c x = .next t) :
    t.schedule = s.schedule ∧ ControlChange s (bindOp c ch x) t.irqBlocks t.fatal := by
  rcases State.bindHandler_next h with ⟨-, rfl⟩ | ⟨-, -, rfl⟩ | ⟨-, free, rfl⟩
  · exact ⟨rfl, .of_raiseFatal ha (.inr ⟨c, ch, x, rfl⟩) _⟩
  · exact ⟨rfl, .of_raiseFatal ha (.inr ⟨c, ch, x, rfl⟩) _⟩
  · exact ⟨rfl, .bound ch ⟨r.info.block, c⟩ x free⟩

theorem State.consumeCommand_control {s t : State} {ch : Nat} {w : Word} {i : Instr}
    (h : s.consumeCommand ch w = .next t) :
    t.schedule = s.schedule ∧ ControlChange s i t.irqBlocks t.fatal := by
  rcases State.consumeCommand_next h with rfl | ⟨r, q, -, -, -, rfl⟩ <;> exact ⟨rfl, .same i⟩

/-- An operation does not write the schedule, and changes the slots and the latch in one of the ways listed. -/
theorem exec_control {s t : State} {i : Instr} (h : exec i s = .next t) :
    t.schedule = s.schedule ∧ ControlChange s i t.irqBlocks t.fatal := by
  cases i with
  | encode d f =>
    obtain ⟨-, rfl⟩ := execEncode_next h
    exact ⟨rfl, .same _⟩
  | decode w =>
    obtain rfl := execDecode_next h
    exact ⟨rfl, .same _⟩
  | createChannel p v =>
    rcases execCreateChannel_next h with ⟨-, rfl⟩ | ⟨ha, -, rfl⟩ | ⟨-, -, rfl⟩
    · exact ⟨rfl, .same _⟩
    · exact ⟨rfl, .of_raiseFatal ha (.inl ⟨p, v, rfl⟩) _⟩
    · exact ⟨rfl, .same _⟩
  | describeChannels =>
    rcases execDescribeChannels_next h with rfl | ⟨-, rfl⟩ <;> exact ⟨rfl, .same _⟩
  | submit ch d f =>
    rcases execSubmit_next h with ⟨-, rfl⟩ | ⟨-, r, -, -, ⟨-, rfl⟩ | ⟨-, rfl⟩⟩ <;> exact ⟨rfl, .same _⟩
  | receive ch =>
    rcases execReceive_next h with ⟨-, rfl⟩ | ⟨-, r, -, ⟨-, rfl⟩ | ⟨w, q, -, rfl⟩⟩ <;> exact ⟨rfl, .same _⟩
  | bindOutboundHandler ch x =>
    rcases execBindOutboundHandler_next h with ⟨-, rfl⟩ | ⟨ha, r, -, hb⟩
    · exact ⟨rfl, .same _⟩
    · exact State.bindHandler_control ha hb
  | bindInboundHandler ch x =>
    rcases execBindInboundHandler_next h with ⟨-, rfl⟩ | ⟨ha, r, -, hb⟩
    · exact ⟨rfl, .same _⟩
    · exact State.bindHandler_control ha hb
  | setOutboundInterrupt ch v =>
    rcases execSetOutboundInterrupt_next h with ⟨-, rfl⟩ | ⟨-, r, -, rfl⟩ <;> exact ⟨rfl, .same _⟩
  | setInboundInterrupt ch v =>
    rcases execSetInboundInterrupt_next h with ⟨-, rfl⟩ | ⟨-, r, -, rfl⟩ <;> exact ⟨rfl, .same _⟩
  | engineTake ch =>
    rcases execEngineTake_next h with rfl | ⟨r, w, q, -, -, -, rfl⟩ <;> exact ⟨rfl, .same _⟩
  | engineGive ch w =>
    rcases execEngineGive_next h with rfl | ⟨r, -, -, -, rfl⟩ <;> exact ⟨rfl, .same _⟩
  | irqEnter b c =>
    rcases execIrqEnter_next h with rfl | ⟨x, -, -, rfl⟩
    · exact ⟨rfl, .same _⟩
    · exact ⟨rfl, .entered b c⟩
  | irqReturn b c =>
    rcases execIrqReturn_next h with rfl | ⟨-, rfl⟩
    · exact ⟨rfl, .same _⟩
    · exact ⟨rfl, .returned b c⟩
  | cmdTx ch d st sp n => exact State.consumeCommand_control h
  | cmdRx ch d st sp n => exact State.consumeCommand_control h
  | rsp ch d n g =>
    rcases execRsp_next h with rfl | ⟨-, r, q, -, -, rfl⟩ <;> exact ⟨rfl, .same _⟩

/-- A handler reference changes only by a bind of its class, from none to the bound one (R17, R145). -/
theorem exec_handler {s t : State} {i : Instr} (h : exec i s = .next t) (id : IrqId) :
    t.handler id = s.handler id ∨ (s.handler id = none ∧ ∃ ch x, i = bindOp id.cls ch x) := by
  have hchange := (exec_control h).2
  generalize hslots : t.irqBlocks = bs, t.fatal = f at hchange
  cases hchange with
  | same => exact .inl (State.handler_congr hslots id)
  | raised => exact .inl (State.handler_congr hslots id)
  | bound ch id₀ x free =>
    rw [State.handler_congr (s := s.bindSlot id₀ x) hslots, State.handler_bindSlot]
    by_cases hid : id = id₀
    · subst hid
      exact .inr ⟨free, ch, x, rfl⟩
    · exact .inl (if_neg hid)
  | entered b c =>
    exact .inl ((State.handler_congr (s := s.setInService ⟨b, c⟩ true) hslots id).trans
      (State.handler_setInService s _ id true))
  | returned b c =>
    exact .inl ((State.handler_congr (s := s.setInService ⟨b, c⟩ false) hslots id).trans
      (State.handler_setInService s _ id false))

/-- An `in_service` bit changes only by the entry of its handler or the return from it (R18, R24). -/
theorem exec_inService {s t : State} {i : Instr} (h : exec i s = .next t) (id : IrqId) :
    t.inService id = s.inService id ∨ i = .irqEnter id.block id.cls ∨ i = .irqReturn id.block id.cls := by
  have hchange := (exec_control h).2
  generalize hslots : t.irqBlocks = bs, t.fatal = f at hchange
  cases hchange with
  | same => exact .inl (State.inService_congr hslots id)
  | raised => exact .inl (State.inService_congr hslots id)
  | bound ch id₀ x free =>
    exact .inl ((State.inService_congr (s := s.bindSlot id₀ x) hslots id).trans (State.inService_bindSlot s id₀ id x))
  | entered b c =>
    by_cases hid : id = ⟨b, c⟩
    · subst hid
      exact .inr (.inl rfl)
    · exact .inl ((State.inService_congr (s := s.setInService ⟨b, c⟩ true) hslots id).trans
        (State.inService_setInService_of_ne hid true))
  | returned b c =>
    by_cases hid : id = ⟨b, c⟩
    · subst hid
      exact .inr (.inr rfl)
    · exact .inl ((State.inService_congr (s := s.setInService ⟨b, c⟩ false) hslots id).trans
        (State.inService_setInService_of_ne hid false))

/-- The latch changes only once, by an operation that can raise (R19, R213). -/
theorem exec_fatal {s t : State} {i : Instr} (h : exec i s = .next t) :
    t.fatal = s.fatal ∨ (s.fatal = none ∧ CanRaise i) := by
  have hchange := (exec_control h).2
  generalize t.irqBlocks = bs, t.fatal = f at hchange ⊢
  cases hchange with
  | raised i e op live => exact .inr ⟨live, op⟩
  | _ => exact .inl rfl

/-! ### What a step leaves -/

/-- The number of channels is kept, or one more by a creation (R11). -/
theorem TableChange.length_eq {s : State} {i : Instr} {cs : List Channel} (h : TableChange s i cs) :
    cs.length = s.nChannels ∨ (cs.length = s.nChannels + 1 ∧ ∃ p v, i = .createChannel p v) := by
  cases h with
  | same => exact .inl rfl
  | created p v op room => exact .inr ⟨by simp [State.nChannels], p, v, op⟩
  | written row write => exact .inl List.length_set

theorem exec_nChannels {s t : State} {i : Instr} (h : exec i s = .next t) :
    t.nChannels = s.nChannels ∨ (t.nChannels = s.nChannels + 1 ∧ ∃ p v, i = .createChannel p v) :=
  (exec_table h).2.length_eq

/-- A step is an operation on a state that differs in its schedule only, or leaves all but the schedule. -/
theorem step_exec {s t : State} (h : step s = .next t) :
    ∃ es, t = s.withSchedule es ∨ ∃ i, exec i (s.withSchedule es) = .next t := by
  rcases step_next h with ⟨-, rfl⟩ | ⟨e, es, -, -, rfl⟩ | ⟨e, es, i, -, -, hx⟩
  · exact ⟨t.schedule, .inl rfl⟩
  · exact ⟨es, .inl rfl⟩
  · exact ⟨es, .inr ⟨i, hx⟩⟩

/-- Settles O46: an operation adds at most one channel, and writes a handler only where none was bound. -/
theorem channelsAndHandlersOnlyGrow : Obligations.ChannelsAndHandlersOnlyGrow := by
  intro s t h
  refine ⟨step_cfg h, ?_⟩
  obtain ⟨es, rfl | ⟨i, hx⟩⟩ := step_exec h
  · exact ⟨Nat.le_refl _, Nat.le_succ _, fun _ _ hb => hb⟩
  · have hn : t.nChannels = s.nChannels ∨ t.nChannels = s.nChannels + 1 := (exec_nChannels hx).imp_right And.left
    refine ⟨by omega, by omega, fun id x hb => ?_⟩
    rcases exec_handler hx id with hsame | ⟨hfree, -⟩
    · exact hsame.trans hb
    · cases hfree.symm.trans hb

/-! ### The two queues -/

/-- The queue columns of R24: `txq` grows by a SUBMIT at its tail and shrinks by the engine's taking at its head;
`rxq` grows by ENGINE_GIVE and shrinks by what receives from it. -/
theorem RowWrite.queues {s : State} {ch : Nat} {r r' : Channel} {i : Instr} (h : RowWrite s ch r i r') :
    (r'.txq = r.txq ∨
      (∃ d f w, i = .submit ch d f ∧ encodeOperands s.cfg d f = some w ∧ r'.txq = r.txq ++ [w]) ∨
      takesCommand i = some ch) ∧
    (r'.rxq = r.rxq ∨ (∃ w, i = .engineGive ch w ∧ r'.rxq = r.rxq ++ [w]) ∨
      ((i = .receive ch ∨ ∃ d n g, i = .rsp ch d n g) ∧ ∃ w, r.rxq = w :: r'.rxq)) := by
  cases h with
  | submit d f valid room =>
    exact ⟨.inr (.inl ⟨d, f, _, rfl, encodeOperands_eq_some.mpr ⟨valid, rfl⟩, rfl⟩), .inl rfl⟩
  | receive w q head => exact ⟨.inl rfl, .inr (.inr ⟨.inl rfl, w, head⟩)⟩
  | rsp d n g q head => exact ⟨.inl rfl, .inr (.inr ⟨.inr ⟨d, n, g, rfl⟩, _, head⟩)⟩
  | bind c x => exact ⟨.inl rfl, .inl rfl⟩
  | set c v => cases c <;> exact ⟨.inl rfl, .inl rfl⟩
  | take i w q takes => exact ⟨.inr (.inr takes), .inl rfl⟩
  | give w => exact ⟨.inl rfl, .inr (.inl ⟨w, rfl, rfl⟩)⟩

/-- An operation that takes a command word returns the one it removes from the head, or has no step (R160). -/
theorem exec_takesCommand_removes {s t : State} {i : Instr} {ch : Nat} {r : Channel}
    (hi : takesCommand i = some ch) (h : exec i s = .next t) (hr : s.row ch = some r) :
    t = s ∨ ∃ w q, r.txq = w :: q ∧ t = s.takeWord ch r w q := by
  by_cases he : s.enabled i = true
  · obtain ⟨r₀, w, q, hr₀, hq, hx⟩ := exec_takesCommand_of_enabled hi he
    obtain rfl : r₀ = r := Option.some.inj (hr₀.symm.trans hr)
    exact .inr ⟨w, q, hq, Host.Outcome.next.inj (h.symm.trans hx)⟩
  · exact .inl (exec_takesCommand_of_not_enabled hi he h)

/-- Settles O47: what takes a command word removes the head and returns it, and every other write is in `queues`. -/
theorem queuesChangeOnlyAtTheirEnds : Obligations.QueuesChangeOnlyAtTheirEnds := by
  intro s t i ch r h hr
  by_cases htakes : takesCommand i = some ch
  · rcases exec_takesCommand_removes htakes h hr with rfl | ⟨w, q, hq, rfl⟩
    · exact ⟨r, hr, .inl rfl, .inl rfl⟩
    · exact ⟨_, State.row_takeWord_self hr w q,
        .inr (.inr ⟨engineChannel_of_takesCommand htakes, w, rfl, hq⟩), .inl rfl⟩
  · obtain ⟨r', hr', rfl | hw⟩ := exec_row h hr
    · exact ⟨r', hr', .inl rfl, .inl rfl⟩
    · obtain ⟨htx, hrx⟩ := hw.queues
      exact ⟨r', hr', htx.imp_right fun htx => .inl (htx.resolve_right htakes), hrx⟩

/-! ### The access table -/

/-- The write columns of R24 for the parts of a row: each is written only by the operations the table lets write it. -/
theorem RowWrite.columns {s : State} {ch : Nat} {r r' : Channel} {i : Instr} (h : RowWrite s ch r i r') :
    (r'.txq ≠ r.txq → (∃ d f, i = .submit ch d f) ∨ takesCommand i = some ch) ∧
    (r'.rxq ≠ r.rxq → (∃ w, i = .engineGive ch w) ∨ heldOpOf i = some (.receive ch)) ∧
    (∀ c, r'.enabled c ≠ r.enabled c → ∃ v, i = setOp c ch v) ∧
    (r'.owed ≠ r.owed → engineChannel i = some ch) ∧
    (r'.info ≠ r.info → ∃ c x, i = bindOp c ch x ∧ r'.info = r.info.withIrqId c (irqId r.info.block c)) := by
  have same (c : IrqClass) (hsame : r'.enabled c = r.enabled c) (hne : r'.enabled c ≠ r.enabled c) :
      ∃ v, i = setOp c ch v := absurd hsame hne
  cases h with
  | submit d f =>
    exact ⟨fun _ => .inl ⟨d, f, rfl⟩, absurd rfl, fun c => same c (by cases c <;> rfl), absurd rfl, absurd rfl⟩
  | receive w q head =>
    exact ⟨absurd rfl, fun _ => .inr rfl, fun c => same c (by cases c <;> rfl), absurd rfl, absurd rfl⟩
  | rsp d n g q head =>
    exact ⟨absurd rfl, fun _ => .inr rfl, fun c => same c (by cases c <;> rfl), absurd rfl, absurd rfl⟩
  | bind c x =>
    exact ⟨absurd rfl, absurd rfl, fun c => same c (by cases c <;> rfl), absurd rfl, fun _ => ⟨c, x, rfl, rfl⟩⟩
  | set c v =>
    refine ⟨?_, ?_, fun c' hne => ?_, ?_, absurd (Channel.withEnabled_info r c v)⟩
    · cases c <;> exact absurd rfl
    · cases c <;> exact absurd rfl
    · rw [Channel.enabled_withEnabled] at hne
      by_cases hc : c' = c
      · exact ⟨v, by rw [hc]⟩
      · exact absurd (if_neg hc) hne
    · cases c <;> exact absurd rfl
  | take i w q takes =>
    exact ⟨fun _ => .inr takes, absurd rfl, fun c => same c (by cases c <;> rfl),
      fun _ => engineChannel_of_takesCommand takes, absurd rfl⟩
  | give w =>
    exact ⟨absurd rfl, fun _ => .inl ⟨w, rfl⟩, fun c => same c (by cases c <;> rfl), fun _ => rfl, absurd rfl⟩

/-- The context stack is the same, waits or waits no more for the operation performed, or is entered or left by its
handler on top (R230, R124). -/
theorem exec_contexts_cases {s t : State} {i : Instr} (h : exec i s = .next t) : t.contexts = s.contexts ∨
    (heldOpOf i ≠ none ∧ ∃ x, t.contexts = s.contexts.setTopHeld x ∧ (x = none ∨ x = heldOpOf i)) ∨
    (∃ b c, i = .irqEnter b c ∧ t.contexts = s.contexts.push ⟨b, c⟩) ∨
    (∃ b c, i = .irqReturn b c ∧ s.contexts.top = .irq ⟨b, c⟩ ∧ t.contexts = s.contexts.pop) := by
  have hchange := exec_contexts h
  generalize hk : t.contexts = k at hchange
  cases hchange with
  | same => exact .inl rfl
  | released i completes =>
    exact .inr (.inl ⟨Option.isSome_iff_ne_none.mp completes, none, rfl, .inl rfl⟩)
  | submitHeld ch d f => exact .inr (.inl ⟨nofun, _, rfl, .inr rfl⟩)
  | receiveHeld ch => exact .inr (.inl ⟨nofun, _, rfl, .inr rfl⟩)
  | entered b c => exact .inr (.inr (.inl ⟨b, c, rfl, rfl⟩))
  | returned b c =>
    rcases execIrqReturn_next h with rfl | ⟨hcan, -⟩
    · exact .inl hk.symm
    · obtain ⟨-, htop, -⟩ := State.canReturn_iff.mp hcan
      exact .inr (.inr (.inr ⟨b, c, rfl, htop, rfl⟩))

/-- Settles O48: each line is read off the changes of the table, of the slots and latch, and of the contexts. -/
theorem operationsTouchOnlyTheirTableRow : Obligations.OperationsTouchOnlyTheirTableRow := by
  intro s t i h
  refine ⟨(exec_table h).1, (exec_control h).1, fun ch r hr hnamed => ?rows, fun hne => ?count, fun hne => ?latch,
    fun id hne => ?handlers, fun id hne => ?service, fun ch r r' hr hr' => ?columns, exec_contexts_cases h⟩
  case rows =>
    obtain ⟨r', hr', rfl | hw⟩ := exec_row h hr
    · exact hr'
    · exact absurd hw.namedChannel_eq hnamed
  case count => exact ((exec_nChannels h).resolve_left hne).2
  case latch => exact ((exec_fatal h).resolve_left hne).2
  case handlers => exact ((exec_handler h id).resolve_left hne).2
  case service => exact (exec_inService h id).resolve_left hne
  case columns =>
    obtain ⟨r₁, hr₁, hw⟩ := exec_row h hr
    obtain rfl : r₁ = r' := Option.some.inj (hr₁.symm.trans hr')
    rcases hw with rfl | hw
    · exact ⟨absurd rfl, absurd rfl, fun _ => absurd rfl, absurd rfl, absurd rfl⟩
    · exact hw.columns

end Sys2Proof.Machine

/-! SUPPORT. One step of the machine (00_scope.md R6, R8; 60_exceptions.md R213, R225): what each event of the schedule runs, and what its agent may not perform. Settles O37, O38, O39 and O40. -/

namespace Sys2Proof.Machine

/-! ### What a step runs -/

section
variable {s : State} {e : Event} {es : List Event} (hs : s.schedule = e :: es)
include hs

theorem step_of_select_run {i : Instr} (hsel : (s.withSchedule es).select e = .run i) :
    step s = exec i (s.withSchedule es) := by
  simp [step, hs, hsel]

theorem step_of_select_noStep (hsel : (s.withSchedule es).select e = .noStep) :
    step s = .next (s.withSchedule es) := by
  simp [step, hs, hsel]

theorem step_of_select_refuse {x : Refusal} (hsel : (s.withSchedule es).select e = .refuse x) :
    step s = .refused x := by
  simp [step, hs, hsel]

end

/-- An agent that may not perform the operation does nothing (R8). -/
theorem step_of_not_mayPerform {s : State} {a : Agent} {i : Instr} {es : List Event}
    (hs : s.schedule = .perform a i :: es) (hmay : s.mayPerform a i = false) :
    step s = .next (s.withSchedule es) :=
  step_of_select_noStep hs (if_neg (Bool.eq_false_iff.mp hmay))

theorem step_of_mayPerform {s : State} {a : Agent} {i : Instr} {es : List Event}
    (hs : s.schedule = .perform a i :: es) (hmay : s.mayPerform a i = true) : step s = exec i (s.withSchedule es) :=
  step_of_select_run hs (if_pos hmay)

/-- Settles O38: the event is selected exactly when its agent may perform it. -/
theorem stepRunsTheScheduledInstruction : Obligations.StepRunsTheScheduledInstruction :=
  fun _ _ _ _ hs => ⟨step_of_mayPerform hs, step_of_not_mayPerform hs⟩

/-! ### What a fetch runs -/

theorem State.fetch_of_decodeWord {s : State} {k : QueueKind} {ch : Nat} {w : Word} {i : Instr}
    (hw : s.headWord k ch = some w) (hi : decodeWord s.cfg k ch w = .ok i) : s.fetch k ch = .run i := by
  simp [State.fetch, hw, hi]

/-- Settles O39: the fetch selects what the word at the head is decoded to. -/
theorem stepRunsTheDecodedWord : Obligations.StepRunsTheDecodedWord := by
  intro s ch w i es _
  refine ⟨fun hs hw hi => step_of_select_run hs (State.fetch_of_decodeWord hw hi), fun hs ha hw hi => ?_⟩
  have hturn : ((s.withSchedule es).contexts.top == s.contexts.top &&
      (s.withSchedule es).hostAccepts (.receive ch)) = true := Bool.and_eq_true_iff.mpr ⟨beq_self_eq_true _, ha⟩
  exact step_of_select_run hs ((if_pos hturn).trans (State.fetch_of_decodeWord hw hi))

/-! ### What an agent may not perform -/

/-- A host context performs only host operations, and only on top of the stack (R225, R230). -/
theorem State.mayPerform_host_eq_false {s : State} {k : Ctx} {i : Instr}
    (h : k ≠ s.contexts.top ∨ isHostOp i = false) : s.mayPerform (.host k) i = false := by
  rcases h with hk | hi
  · simp [State.mayPerform, hk.symm]
  · simp [State.mayPerform, hi]

/-- The host performs nothing that it does not accept (R213, R124). -/
theorem State.mayPerform_host_of_not_accepts {s : State} {i : Instr} (ha : s.hostAccepts i = false) (k : Ctx) :
    s.mayPerform (.host k) i = false := by
  simp [State.mayPerform, ha]

/-- An engine performs, but for the codec, the steps of its own channel only (R166). -/
theorem State.mayPerform_engine_eq_false {s : State} {ch : Nat} {i : Instr} (hc : isCodecOp i = false)
    (h : engineChannel i ≠ some ch) : s.mayPerform (.engine ch) i = false := by
  simp [State.mayPerform, hc, h]

/-- The dispatcher performs, but for the codec, its two operations only (R6). -/
theorem State.mayPerform_dispatcher_eq_false {s : State} {i : Instr} (hc : isCodecOp i = false)
    (h : isDispatcherOp i = false) : s.mayPerform .dispatcher i = false := by
  simp [State.mayPerform, hc, h]

/-- Settles O40: the row of the table of R6 for each agent. -/
theorem eachAgentPerformsOnlyItsOwnSteps : Obligations.EachAgentPerformsOnlyItsOwnSteps := fun _ _ _ hc =>
  ⟨fun _ hs h => step_of_not_mayPerform hs (State.mayPerform_host_eq_false h),
    fun _ hs h => step_of_not_mayPerform hs (State.mayPerform_engine_eq_false hc h),
    fun hs h => step_of_not_mayPerform hs (State.mayPerform_dispatcher_eq_false hc h)⟩

/-! ### After a fatal error -/

/-- The latch stays set across a step (R213). -/
theorem step_fatal {s t : State} {e : FatalReason} (hf : s.fatal = some e) (h : step s = .next t) :
    t.fatal = some e := by
  obtain ⟨es, rfl | ⟨i, hx⟩⟩ := step_exec h
  · exact hf
  · rcases exec_fatal hx with hsame | ⟨hnone, -⟩
    · exact hsame.trans hf
    · cases hnone.symm.trans hf

/-- The dispatcher enters and leaves no handler after a fatal error (R222, R224). -/
theorem exec_isDispatcherOp_of_fatal {s : State} {i : Instr} (hf : s.fatal ≠ none) (hi : isDispatcherOp i = true) :
    exec i s = .next s := by
  cases i with
  | irqEnter b c => exact exec_irqEnter_of_not_canEnter fun hcan => hf (State.canEnter_iff.mp hcan).1
  | irqReturn b c =>
    exact exec_of_not_enabled_of_not_checks rfl
      (Bool.eq_false_iff.mpr fun hcan => hf (State.canReturn_iff.mp hcan).1)
  | _ => cases hi

/-- Settles O37: the host accepts nothing and the dispatcher has no step while the latch is set. -/
theorem fatalErrorEndsTheHostProgram : Obligations.FatalErrorEndsTheHostProgram := by
  intro s e hf
  have hset : s.fatal ≠ none := hf ▸ Option.some_ne_none e
  refine ⟨fun t => step_fatal hf, fun k i es hs => ?host, fun i es hs hc => ?dispatcher, fun k ch es hs => ?fetch⟩
  case host => exact step_of_not_mayPerform hs (State.mayPerform_host_of_not_accepts (State.hostAccepts_fatal hset) k)
  case dispatcher =>
    cases hi : isDispatcherOp i with
    | false => exact step_of_not_mayPerform hs (State.mayPerform_dispatcher_eq_false hc hi)
    | true =>
      rw [step_of_mayPerform hs (Bool.or_eq_true_iff.mpr (.inl hi))]
      exact exec_isDispatcherOp_of_fatal hset hi
  case fetch =>
    have hno : (s.withSchedule es).hostAccepts (.receive ch) = false := State.hostAccepts_fatal hset
    exact step_of_select_noStep hs (if_neg (by rw [hno, Bool.and_false]; exact Bool.false_ne_true))

end Sys2Proof.Machine

/-! SUPPORT. The host's operations and the context that performs them (60_exceptions.md R231, D28): the same answer over any stack whose top waits for nothing. Settles O41. -/

namespace Sys2Proof.Machine

/-- The state with another context stack. -/
def State.withContexts (s : State) (k : ContextStack) : State := { s with contexts := k }

/-- With nothing waiting on top the stack does not matter to what the host accepts. -/
theorem State.hostAccepts_withContexts {s : State} {k : ContextStack} (hs : s.contexts.topHeld = none)
    (hk : k.topHeld = none) (i : Instr) : (s.withContexts k).hostAccepts i = s.hostAccepts i := by
  simp [State.hostAccepts, State.withContexts, hs, hk]

/-- Ending a wait that is not there is no change. -/
theorem ContextStack.setTopHeld_none {k : ContextStack} (hk : k.topHeld = none) : k.setTopHeld none = k := by
  rw [← hk, ContextStack.setTopHeld_topHeld]

/-- A completed operation that releases the top context releases the other stack's, which is no change there. -/
theorem State.withContexts_release {s : State} {k : ContextStack} (hk : k.topHeld = none) :
    (s.withContexts k).release = s.withContexts k := by
  simp [State.release, State.withContexts, ContextStack.setTopHeld_none hk]

/-- The word at the head is received alike over the other stack. -/
theorem State.receiveWord_withContexts (s : State) {k : ContextStack} (hk : k.topHeld = none)
    (ch : Nat) (r : Channel) (w : Word)
    (q : List Word) : (s.withContexts k).receiveWord ch r w q = (s.receiveWord ch r w q).withContexts k :=
  congrArg (fun u => State.returning u (.decoded (decodeResponseWord s.cfg w).1 (decodeResponseWord s.cfg w).2))
    (State.withContexts_release (s := s.setRow ch _) hk)

/-- The shared body of the binds does not read the contexts. -/
theorem State.bindHandler_withContexts {s t : State} {ch : Nat} {r : Channel} {c : IrqClass} {x : HandlerRef}
    (hf : s.fatal = none) (h : s.bindHandler ch r c x = .next t) (k : ContextStack) :
    (s.withContexts k).bindHandler ch r c x = .next (t.withContexts k) := by
  rcases State.bindHandler_next h with ⟨hb, rfl⟩ | ⟨hb, hbound, rfl⟩ | ⟨hb, hfree, rfl⟩
  · rw [State.raiseFatal_of_none hf]
    exact State.bindHandler_of_unsupported (s := s.withContexts k) hf hb ch c x
  · obtain ⟨x', hx'⟩ := Option.isSome_iff_exists.mp hbound
    rw [State.raiseFatal_of_none hf]
    exact State.bindHandler_of_bound (s := s.withContexts k) hf hb hx' ch x
  · exact State.bindHandler_of_free (s := s.withContexts k) hb hfree ch x

section
variable {s t : State} {k : ContextStack} (hs : s.contexts.topHeld = none) (hk : k.topHeld = none)
include hs hk

/-- A bind answers the same over the other stack. -/
theorem exec_bindOp_withContexts {c : IrqClass} {ch : Nat} {x : HandlerRef} (h : exec (bindOp c ch x) s = .next t) :
    exec (bindOp c ch x) (s.withContexts k) = .next (t.withContexts k) := by
  rw [exec_bindOp] at h ⊢
  rcases State.onChannel_next h with ⟨ha, rfl⟩ | ⟨ha, r, hr, hx⟩
  · exact State.onChannel_of_not_accepts ((State.hostAccepts_withContexts hs hk _).trans ha) ch _
  · rw [State.onChannel_row ((State.hostAccepts_withContexts hs hk _).trans ha) hr]
    exact State.bindHandler_withContexts (State.hostAccepts_iff.mp ha).1 hx k

/-- A set answers the same over the other stack. -/
theorem exec_setOp_withContexts {c : IrqClass} {ch : Nat} {v : Bool} (h : exec (setOp c ch v) s = .next t) :
    exec (setOp c ch v) (s.withContexts k) = .next (t.withContexts k) := by
  rw [exec_setOp] at h ⊢
  rcases State.onChannel_next h with ⟨ha, rfl⟩ | ⟨ha, r, hr, hx⟩
  · exact State.onChannel_of_not_accepts ((State.hostAccepts_withContexts hs hk _).trans ha) ch _
  · rw [State.onChannel_row ((State.hostAccepts_withContexts hs hk _).trans ha) hr]
    cases hx
    rfl

theorem exec_createChannel_withContexts {p : Nat} {v : SpeedClass} (h : exec (.createChannel p v) s = .next t) :
    exec (.createChannel p v) (s.withContexts k) = .next (t.withContexts k) := by
  have haccepts := State.hostAccepts_withContexts hs hk (.createChannel p v)
  rcases execCreateChannel_next h with ⟨ha, rfl⟩ | ⟨ha, hfull, rfl⟩ | ⟨ha, hroom, rfl⟩
  · exact exec_of_not_enabled_of_not_checks rfl (haccepts.trans ha)
  · rw [State.raiseFatal_of_none (State.hostAccepts_iff.mp ha).1]
    exact exec_createChannel_at_capacity (s := s.withContexts k) (haccepts.trans ha) hfull
  · exact exec_createChannel_of_room (s := s.withContexts k) (haccepts.trans ha) hroom

theorem exec_describeChannels_withContexts (h : exec .describeChannels s = .next t) :
    exec .describeChannels (s.withContexts k) = .next (t.withContexts k) := by
  have haccepts := State.hostAccepts_withContexts hs hk .describeChannels
  cases ha : s.hostAccepts .describeChannels with
  | false =>
    obtain rfl := Host.Outcome.next.inj
      ((exec_of_not_enabled_of_not_checks (i := .describeChannels) rfl ha).symm.trans h)
    exact exec_of_not_enabled_of_not_checks (i := .describeChannels) rfl (haccepts.trans ha)
  | true =>
    obtain rfl := Host.Outcome.next.inj ((if_pos ha : exec .describeChannels s = _).symm.trans h)
    exact if_pos (haccepts.trans ha)

/-- A SUBMIT that does not end waiting answers the same over the other stack. -/
theorem exec_submit_withContexts {ch : Nat} {d : Byte} {f : FlagSet} (h : exec (.submit ch d f) s = .next t)
    (ht : t.contexts.topHeld = none) :
    exec (.submit ch d f) (s.withContexts k) = .next (t.withContexts k) := by
  have haccepts := State.hostAccepts_withContexts hs hk (.submit ch d f)
  rcases execSubmit_next h with ⟨ha, rfl⟩ | ⟨ha, r, hr, hv, ⟨hroom, rfl⟩ | ⟨-, rfl⟩⟩
  · exact State.onChannel_of_not_accepts (haccepts.trans ha) ch _
  · rw [exec_submit_of_room (haccepts.trans ha) hr hv (txReady_iff.mp hroom), State.withSubmitted]
    exact congrArg (fun u => Host.Outcome.next (State.returning u .nothing))
      (State.withContexts_release (s := s.setRow ch _) hk)
  · cases (ContextStack.topHeld_setTopHeld _ _).symm.trans ht

/-- A RECEIVE that does not end waiting answers the same over the other stack. -/
theorem exec_receive_withContexts {ch : Nat} (h : exec (.receive ch) s = .next t) (ht : t.contexts.topHeld = none) :
    exec (.receive ch) (s.withContexts k) = .next (t.withContexts k) := by
  have haccepts := State.hostAccepts_withContexts hs hk (.receive ch)
  rcases execReceive_next h with ⟨ha, rfl⟩ | ⟨ha, r, hr, ⟨-, rfl⟩ | ⟨w, q, hq, rfl⟩⟩
  · exact State.onChannel_of_not_accepts (haccepts.trans ha) ch _
  · cases (ContextStack.topHeld_setTopHeld _ _).symm.trans ht
  · rw [exec_receive_of_rxq_eq_cons (haccepts.trans ha) hr hq, State.receiveWord_withContexts s hk]

theorem exec_rsp_withContexts {ch : Nat} {d : Byte} {n : Bool} {g : BitVec 24}
    (h : exec (.rsp ch d n g) s = .next t) :
    exec (.rsp ch d n g) (s.withContexts k) = .next (t.withContexts k) := by
  have haccepts := State.hostAccepts_withContexts hs hk (.rsp ch d n g)
  have henabled : (s.withContexts k).enabled (.rsp ch d n g) = s.enabled (.rsp ch d n g) :=
    congrArg (· && s.headIs .inbound ch (responseWord s.cfg d n g)) haccepts
  cases he : s.enabled (.rsp ch d n g) with
  | false =>
    obtain rfl := Host.Outcome.next.inj ((exec_of_not_enabled_of_not_checks rfl he).symm.trans h)
    exact exec_of_not_enabled_of_not_checks rfl (henabled.trans he)
  | true =>
    obtain ⟨ha, hhead⟩ := Bool.and_eq_true_iff.mp he
    obtain ⟨r, q, hr, hq⟩ := State.headWord_inbound_eq_some.mp (beq_iff_eq.mp hhead)
    obtain rfl := Host.Outcome.next.inj ((exec_rsp_of_rxq_eq_cons ha hr hq).symm.trans h)
    rw [exec_rsp_of_rxq_eq_cons (s := s.withContexts k) (haccepts.trans ha) hr hq]
    exact congrArg Host.Outcome.next (State.receiveWord_withContexts s hk ch r _ q)

end

/-- Settles O41: each host operation over the other stack. -/
theorem hostOperationsIgnoreTheContext : Obligations.HostOperationsIgnoreTheContext := by
  intro s t i k hi hs hk h ht
  change exec i (s.withContexts k) = .next (t.withContexts k)
  cases i with
  | encode d f =>
    obtain ⟨hv, rfl⟩ := execEncode_next h
    exact exec_encode (s.withContexts k) d hv
  | decode w =>
    obtain rfl := execDecode_next h
    exact exec_decode (s.withContexts k) w
  | createChannel p v => exact exec_createChannel_withContexts hs hk h
  | describeChannels => exact exec_describeChannels_withContexts hs hk h
  | submit ch d f => exact exec_submit_withContexts hs hk h ht
  | receive ch => exact exec_receive_withContexts hs hk h ht
  | bindOutboundHandler ch x => exact exec_bindOp_withContexts (c := .outbound) hs hk h
  | bindInboundHandler ch x => exact exec_bindOp_withContexts (c := .inbound) hs hk h
  | setOutboundInterrupt ch v => exact exec_setOp_withContexts (c := .outbound) hs hk h
  | setInboundInterrupt ch v => exact exec_setOp_withContexts (c := .inbound) hs hk h
  | rsp ch d n g => exact exec_rsp_withContexts hs hk h
  | _ => cases hi

end Sys2Proof.Machine

/-! SUPPORT. The invariant of the machine (10_state.md R11, R13, R17; 20_memory.md R45; 60_exceptions.md R230): that the reset state meets it, one rule for each operation on the state that keeps it, and from these each instruction and each step. Settles O42, O43, O44 and O52. -/

namespace Sys2Proof.Machine

/-! ### Reset -/

/-- Every slot of the reset state is empty, and a block outside IRQ_BLOCKS has none (R17, R25). -/
theorem State.slot_resetOf (c : Config) (id : IrqId) :
    (State.resetOf c).slot id = none ∨ (State.resetOf c).slot id = some Slot.reset := by
  cases hslot : (State.resetOf c).slot id with
  | none => exact .inl rfl
  | some x =>
    obtain ⟨b, hb, rfl⟩ := Option.map_eq_some_iff.mp hslot
    obtain ⟨n, -, rfl⟩ := List.mem_map.mp (List.mem_of_find?_eq_some hb)
    cases id.cls <;> exact .inr rfl

theorem State.handler_resetOf (c : Config) (id : IrqId) : (State.resetOf c).handler id = none := by
  rcases State.slot_resetOf c id with h | h <;> simp [State.handler, h, Slot.reset]

theorem State.inService_resetOf (c : Config) (id : IrqId) : (State.resetOf c).inService id = false := by
  rcases State.slot_resetOf c id with h | h <;> simp [State.inService, h, Slot.reset]

/-- The slots of the reset state are those of IRQ_BLOCKS (R17, R25). -/
theorem State.blocks_resetOf (c : Config) : (State.resetOf c).irqBlocks.map (fun b => b.block) = c.irqBlocks := by
  simp [State.resetOf, Function.comp_def]

/-- Settles O42: no channel, and every slot that exists is empty. -/
theorem resetLeavesTheStatedValues : Obligations.ResetLeavesTheStatedValues := by
  refine ⟨rfl, fun c => ⟨rfl, rfl, fun _ => rfl, fun id => ?_, fun b k hb => ?_, rfl, rfl⟩⟩
  · exact ⟨State.handler_resetOf c id, State.inService_resetOf c id, rfl⟩
  · obtain ⟨x, hx⟩ := State.exists_slot (s := State.resetOf c) (id := ⟨b, k⟩) ((State.blocks_resetOf c).symm ▸ hb)
    rw [hx, Option.isSome_some]

theorem State.inv_resetOf {c : Config} (hc : c.Valid) : (State.resetOf c).Inv where
  cfg_valid := hc
  capacity := Nat.zero_le _
  rows := fun _ _ hr => nomatch hr
  slots := State.blocks_resetOf c
  service := fun id => by rw [State.inService_resetOf]; simp [State.resetOf]
  stack_nodup := List.nodup_nil
  held := fun _ h => nomatch h

/-- Settles O43: the reset state has nothing that could break the invariant. -/
theorem resetMeetsTheInvariant : Obligations.ResetMeetsTheInvariant :=
  ⟨fun _ => State.inv_resetOf, State.inv_resetOf (by decide)⟩

/-! ### The good row and the good wait, in another state -/

/-- A good row is good where the parameters are the same and what was bound is bound. -/
theorem Channel.Ok.congr {s t : State} {ch : Nat} {r : Channel} (h : Channel.Ok s ch r) (hcfg : t.cfg = s.cfg)
    (hbound : ∀ id, (s.handler id).isSome = true → (t.handler id).isSome = true) : Channel.Ok t ch r where
  block_eq := hcfg ▸ h.block_eq
  lane_eq := hcfg ▸ h.lane_eq
  tx_bound := hcfg ▸ h.tx_bound
  rx_bound := hcfg ▸ h.rx_bound
  owed_bound := hcfg ▸ h.owed_bound
  tx_words := hcfg ▸ h.tx_words
  out_id := fun id hid => (h.out_id id hid).imp_right (hbound id)
  in_id := fun id hid => (h.in_id id hid).imp_right (hbound id)

/-- A good wait stays good while no channel is destroyed. -/
theorem HeldOp.Ok.congr {s t : State} {o : HeldOp} (h : HeldOp.Ok s o) (hn : s.nChannels ≤ t.nChannels) :
    HeldOp.Ok t o := by
  cases o with
  | submit ch d f => exact ⟨Nat.lt_of_lt_of_le h.1 hn, h.2⟩
  | receive ch => exact Nat.lt_of_lt_of_le h hn

/-- A write that keeps the record keeps the row good: each queue and the owed count within its bound (R45, R169), and
only words that ENCODE assembles in `txq` (R61). -/
theorem RowWrite.ok {s : State} {ch : Nat} {r r' : Channel} {i : Instr} (h : RowWrite s ch r i r')
    (hok : Channel.Ok s ch r) (hinfo : r'.info = r.info) : Channel.Ok s ch r' := by
  obtain ⟨hblock, hlane, htx, hrx, howed, hwords, hout, hin⟩ := hok
  cases h with
  | submit d f valid room =>
    refine ⟨hblock, hlane, ?_, hrx, howed, fun w hw => ?_, hout, hin⟩
    · rw [qPush_length]
      exact txReady_iff.mp room
    · rcases List.mem_append.mp hw with hold | hnew
      · exact hwords w hold
      · rw [List.mem_singleton.mp hnew]
        exact isCommandWord_commandWord s.cfg d _ _ _ _
  | receive w q head =>
    rw [head] at hrx
    exact ⟨hblock, hlane, htx, Nat.le_of_succ_le hrx, howed, hwords, hout, hin⟩
  | rsp d n g q head =>
    rw [head] at hrx
    exact ⟨hblock, hlane, htx, Nat.le_of_succ_le hrx, howed, hwords, hout, hin⟩
  | bind c x =>
    replace hinfo : r.info.withIrqId c (irqId r.info.block c) = r.info := hinfo
    rw [hinfo]
    exact ⟨hblock, hlane, htx, hrx, howed, hwords, hout, hin⟩
  | set c v => cases c <;> exact ⟨hblock, hlane, htx, hrx, howed, hwords, hout, hin⟩
  | take i w q takes head limit =>
    rw [head] at htx hwords
    refine ⟨hblock, hlane, Nat.le_of_succ_le htx, hrx, fun m hm => ?_, (List.forall_mem_cons.mp hwords).2, hout, hin⟩
    have hlimit : r.owed < m := mayOweMore_iff.mp limit m hm
    cases wordReply s.cfg w with
    | true => exact hlimit
    | false => exact Nat.le_of_lt hlimit
  | give w owes room =>
    refine ⟨hblock, hlane, htx, ?_, fun m hm => Nat.le_trans (Nat.sub_le _ _) (howed m hm), hwords, hout, hin⟩
    rw [qPush_length]
    exact rxRoom_iff.mp room

/-- A new channel is good at its id (R110, R112). -/
theorem Channel.Ok.newChannel (s : State) (p : Nat) (v : SpeedClass) (ch : Nat) :
    Channel.Ok s ch (newChannel s.cfg ch p v) where
  block_eq := rfl
  lane_eq := rfl
  tx_bound := Nat.zero_le _
  rx_bound := Nat.zero_le _
  owed_bound := fun _ _ => Nat.zero_le _
  tx_words := fun _ hw => nomatch hw
  out_id := fun _ hid => nomatch hid
  in_id := fun _ hid => nomatch hid

/-! ### One rule for each operation on the state -/

/-- The invariant speaks of the parameters, the channels, the slots and the contexts only. -/
theorem State.Inv.congr {s t : State} (h : s.Inv) (hcfg : t.cfg = s.cfg) (hchannels : t.channels = s.channels)
    (hslots : t.irqBlocks = s.irqBlocks) (hctx : t.contexts = s.contexts) : t.Inv where
  cfg_valid := hcfg ▸ h.cfg_valid
  capacity := by rw [State.nChannels, hchannels, hcfg]; exact h.capacity
  rows := fun ch r hr => (h.rows ch r ((State.row_congr hchannels ch).symm.trans hr)).congr hcfg
    fun id hb => by rw [State.handler_congr hslots]; exact hb
  slots := by rw [hslots, hcfg]; exact h.slots
  service := fun id => by rw [State.inService_congr hslots, hctx]; exact h.service id
  stack_nodup := hctx ▸ h.stack_nodup
  held := fun o ho => (h.held o (hctx ▸ ho)).congr (by rw [State.nChannels, State.nChannels, hchannels])

theorem State.Inv.returning {s : State} (h : s.Inv) (x : OpResult) : (s.returning x).Inv :=
  h.congr rfl rfl rfl rfl

theorem State.Inv.raiseFatal {s : State} (h : s.Inv) (e : FatalReason) : (s.raiseFatal e).Inv :=
  h.congr rfl rfl rfl rfl

/-- A wait that passed its checks, or the end of one, is recorded on top. -/
theorem State.Inv.setTopHeld {s : State} (h : s.Inv) (x : Option HeldOp) (hx : ∀ o, x = some o → HeldOp.Ok s o) :
    ({ s with contexts := s.contexts.setTopHeld x } : State).Inv where
  cfg_valid := h.cfg_valid
  capacity := h.capacity
  rows := fun ch r hr => (h.rows ch r hr).congr rfl fun _ => id
  slots := h.slots
  service := fun id => by rw [ContextStack.ids_setTopHeld]; exact h.service id
  stack_nodup := by rw [ContextStack.ids_setTopHeld]; exact h.stack_nodup
  held := fun o ho => ((ContextStack.mem_heldOps_setTopHeld ho).elim (hx o) (h.held o)).congr (Nat.le_refl _)

theorem State.Inv.release {s : State} (h : s.Inv) : s.release.Inv :=
  h.setTopHeld none nofun

theorem State.Inv.hold {s : State} (h : s.Inv) {o : HeldOp} (ho : HeldOp.Ok s o) : (s.hold o).Inv :=
  h.setTopHeld (some o) fun _ e => Option.some.inj e ▸ ho

/-- A row written with a good one. -/
theorem State.Inv.setRow {s : State} (h : s.Inv) {ch : Nat} {r : Channel} (hr : Channel.Ok s ch r) :
    (s.setRow ch r).Inv where
  cfg_valid := h.cfg_valid
  capacity := by rw [State.nChannels_setRow]; exact h.capacity
  rows := fun ch' r' hr' => by
    rw [State.row_setRow] at hr'
    split at hr'
    case isTrue hch =>
      obtain ⟨rfl, -⟩ := hch
      cases hr'
      exact hr.congr rfl fun _ => id
    case isFalse => exact (h.rows ch' r' hr').congr rfl fun _ => id
  slots := h.slots
  service := h.service
  stack_nodup := h.stack_nodup
  held := fun o ho => (h.held o ho).congr (State.nChannels_setRow s ch r).ge

/-- A row written by an operation that keeps the record. -/
theorem State.Inv.written {s : State} (h : s.Inv) {ch : Nat} {r r' : Channel} {i : Instr} (hr : s.row ch = some r)
    (hw : RowWrite s ch r i r') (hinfo : r'.info = r.info) : (s.setRow ch r').Inv :=
  h.setRow (hw.ok (h.rows ch r hr) hinfo)

theorem State.Inv.takeWord {s : State} (h : s.Inv) {ch : Nat} {r : Channel} {w : Word} {q : List Word}
    (hr : s.row ch = some r) (hq : r.txq = w :: q) (hm : mayOweMore s.cfg r.owed = true) :
    (s.takeWord ch r w q).Inv :=
  (h.written hr (.take (.engineTake ch) w q rfl hq hm) rfl).returning _

theorem State.Inv.receiveWord {s : State} (h : s.Inv) {ch : Nat} {r : Channel} {w : Word} {q : List Word}
    (hr : s.row ch = some r) (hq : r.rxq = w :: q) : (s.receiveWord ch r w q).Inv :=
  (h.written hr (.receive w q hq) rfl).release.returning _

/-- A channel created below capacity (R11, R110). -/
theorem State.Inv.withNewChannel {s : State} (h : s.Inv) (hroom : s.nChannels ≠ s.cfg.maxChannels) (p : Nat)
    (v : SpeedClass) : (s.withNewChannel p v).Inv where
  cfg_valid := h.cfg_valid
  capacity := by
    rw [State.nChannels_withNewChannel]
    exact Nat.lt_of_le_of_ne h.capacity hroom
  rows := fun ch r hr => by
    rcases Nat.lt_or_ge ch s.nChannels with hlt | hge
    · rw [State.row_withNewChannel_of_lt s p v hlt] at hr
      exact (h.rows ch r hr).congr rfl fun _ => id
    · have hch : ch = s.nChannels := by
        have := State.lt_of_row hr
        rw [State.nChannels_withNewChannel] at this
        omega
      subst hch
      cases (State.row_withNewChannel_self s p v).symm.trans hr
      exact Channel.Ok.newChannel (s.withNewChannel p v) p v _
  slots := h.slots
  service := h.service
  stack_nodup := h.stack_nodup
  held := fun o ho => (h.held o ho).congr (by rw [State.nChannels_withNewChannel]; exact Nat.le_succ _)

/-- A slot bound: what was bound stays bound (R145). -/
theorem State.Inv.bindSlot {s : State} (h : s.Inv) (id : IrqId) (x : HandlerRef) : (s.bindSlot id x).Inv where
  cfg_valid := h.cfg_valid
  capacity := h.capacity
  rows := fun ch r hr => (h.rows ch r hr).congr rfl fun id' hbound => by
    rw [State.handler_bindSlot]
    split
    · obtain ⟨y, hy⟩ := Option.isSome_iff_exists.mp hbound
      rw [Option.isSome_map]
      exact State.slot_isSome_of_handler hy
    · exact hbound
  slots := (State.blocks_modifySlot s id _).trans h.slots
  service := fun id' => by rw [State.inService_bindSlot]; exact h.service id'
  stack_nodup := h.stack_nodup
  held := fun o ho => (h.held o ho).congr (Nat.le_refl _)

/-- A row with the interrupt id of its own block and class recorded is good where that handler is bound (R150). -/
theorem Channel.Ok.withIrqId {s : State} {ch : Nat} {r : Channel} {c : IrqClass} (h : Channel.Ok s ch r)
    (hbound : (s.handler (irqId r.info.block c)).isSome = true) :
    Channel.Ok s ch { r with info := r.info.withIrqId c (irqId r.info.block c) } := by
  obtain ⟨hblock, hlane, htx, hrx, howed, hwords, hout, hin⟩ := h
  cases c with
  | outbound =>
    refine ⟨hblock, hlane, htx, hrx, howed, hwords, fun id hid => ?_, hin⟩
    cases hid
    exact ⟨rfl, hbound⟩
  | inbound =>
    refine ⟨hblock, hlane, htx, hrx, howed, hwords, hout, fun id hid => ?_⟩
    cases hid
    exact ⟨rfl, hbound⟩

/-- A handler bound through a channel of its block (R140, R141). -/
theorem State.Inv.withBinding {s : State} (h : s.Inv) {ch : Nat} {r : Channel} {c : IrqClass}
    (hr : s.row ch = some r) (hb : r.info.block ∈ s.cfg.irqBlocks) (x : HandlerRef) :
    (s.withBinding ch r c x).Inv := by
  have hinv := h.bindSlot ⟨r.info.block, c⟩ x
  have hbound : ((s.bindSlot ⟨r.info.block, c⟩ x).handler (irqId r.info.block c)).isSome = true := by
    have hself : (s.bindSlot ⟨r.info.block, c⟩ x).handler (irqId r.info.block c) = some x :=
      State.handler_withBinding_self (h.slots.symm ▸ hb) ch x
    rw [hself, Option.isSome_some]
  exact (hinv.setRow ((hinv.rows ch r hr).withIrqId hbound)).returning _

theorem ContextStack.heldOps_push (k : ContextStack) (id : IrqId) : (k.push id).heldOps = k.heldOps := by
  simp [ContextStack.push, ContextStack.heldOps]

theorem ContextStack.mem_heldOps_of_pop {k : ContextStack} {o : HeldOp} (h : o ∈ k.pop.heldOps) :
    o ∈ k.heldOps := by
  obtain ⟨g, irqs⟩ := k
  cases irqs with
  | nil => exact h
  | cons f fs =>
    rcases List.mem_append.mp h with hg | hfs
    · exact List.mem_append_left _ hg
    · exact List.mem_append_right _ (List.mem_append_right _ hfs)

/-- A handler entered that was bound and not in service: its bit is set and its context is the new one on top (R222). -/
theorem State.Inv.enterHandler {s : State} (h : s.Inv) {id : IrqId} {x : HandlerRef} (hbound : s.handler id = some x)
    (hidle : s.inService id = false) : (s.enterHandler id x).Inv where
  cfg_valid := h.cfg_valid
  capacity := h.capacity
  rows := fun ch r hr => (h.rows ch r hr).congr rfl fun id' hb =>
    (congrArg Option.isSome (State.handler_setInService s id id' true)).trans hb
  slots := (State.blocks_modifySlot s id fun y => { y with inService := true }).trans h.slots
  service := fun id' => by
    change (s.setInService id true).inService id' = true ↔ id' ∈ id :: s.contexts.irqs.map fun f => f.id
    by_cases hid : id' = id
    · subst hid
      simp [State.inService_setInService_self (State.slot_isSome_of_handler hbound)]
    · rw [State.inService_setInService_of_ne hid, h.service, List.mem_cons, or_iff_right hid]
  stack_nodup := List.nodup_cons.mpr
    ⟨fun hmem => Bool.false_ne_true (hidle.symm.trans ((h.service id).mpr hmem)), h.stack_nodup⟩
  held := fun o ho => (h.held o (ContextStack.heldOps_push s.contexts id ▸ ho)).congr (Nat.le_refl _)

/-- The handler on top left: its bit is cleared and its context, which stood there once, is gone (R224). -/
theorem State.Inv.returnHandler {s : State} (h : s.Inv) {id : IrqId} (htop : s.contexts.top = .irq id) :
    (s.returnHandler id).Inv := by
  obtain ⟨f, fs, hirqs, hf⟩ := ContextStack.top_eq_irq htop
  have hids : (s.contexts.irqs.map fun f => f.id) = id :: fs.map fun f => f.id := by
    rw [hirqs, List.map_cons, hf]
  have hpop : (s.contexts.pop.irqs.map fun f => f.id) = fs.map fun f => f.id := by
    rw [ContextStack.pop, hirqs, List.tail_cons]
  obtain ⟨hfresh, hnodup⟩ := List.nodup_cons.mp (hids ▸ h.stack_nodup)
  exact {
    cfg_valid := h.cfg_valid
    capacity := h.capacity
    rows := fun ch r hr => (h.rows ch r hr).congr rfl fun id' hb =>
      (congrArg Option.isSome (State.handler_setInService s id id' false)).trans hb
    slots := (State.blocks_modifySlot s id fun y => { y with inService := false }).trans h.slots
    service := fun id' => by
      change (s.setInService id false).inService id' = true ↔ id' ∈ s.contexts.pop.irqs.map fun f => f.id
      rw [hpop]
      by_cases hid : id' = id
      · subst hid
        simp only [State.inService_setInService_false, Bool.false_eq_true, hfresh]
      · rw [State.inService_setInService_of_ne hid, h.service, hids, List.mem_cons, or_iff_right hid]
    stack_nodup := by
      change (s.contexts.pop.irqs.map fun f => f.id).Nodup
      rw [hpop]
      exact hnodup
    held := fun o ho => (h.held o (ContextStack.mem_heldOps_of_pop ho)).congr (Nat.le_refl _) }

/-! ### Every operation and every step -/

theorem State.Inv.bindHandler {s t : State} (h : s.Inv) {ch : Nat} {r : Channel} {c : IrqClass} {x : HandlerRef}
    (hr : s.row ch = some r) (hx : s.bindHandler ch r c x = .next t) : t.Inv := by
  rcases State.bindHandler_next hx with ⟨-, rfl⟩ | ⟨-, -, rfl⟩ | ⟨hb, -, rfl⟩
  · exact h.raiseFatal _
  · exact h.raiseFatal _
  · exact h.withBinding hr hb x

theorem State.Inv.consumeCommand {s t : State} (h : s.Inv) {ch : Nat} {w : Word}
    (hx : s.consumeCommand ch w = .next t) : t.Inv := by
  rcases State.consumeCommand_next hx with rfl | ⟨r, q, hr, hq, hm, rfl⟩
  · exact h
  · exact h.takeWord hr hq hm

/-- Every operation keeps the invariant. -/
theorem State.Inv.exec {s t : State} (h : s.Inv) {i : Instr} (hx : exec i s = .next t) : t.Inv := by
  cases i with
  | encode d f =>
    obtain ⟨-, rfl⟩ := execEncode_next hx
    exact h.returning _
  | decode w =>
    obtain rfl := execDecode_next hx
    exact h.returning _
  | createChannel p v =>
    rcases execCreateChannel_next hx with ⟨-, rfl⟩ | ⟨-, -, rfl⟩ | ⟨-, hroom, rfl⟩
    · exact h
    · exact h.raiseFatal _
    · exact h.withNewChannel hroom p v
  | describeChannels =>
    rcases execDescribeChannels_next hx with rfl | ⟨-, rfl⟩
    · exact h
    · exact h.returning _
  | submit ch d f =>
    rcases execSubmit_next hx with ⟨-, rfl⟩ | ⟨-, r, hr, hv, ⟨hroom, rfl⟩ | ⟨-, rfl⟩⟩
    · exact h
    · exact (h.written hr (.submit d f hv hroom) rfl).release.returning _
    · exact h.hold ⟨State.lt_of_row hr, hv⟩
  | receive ch =>
    rcases execReceive_next hx with ⟨-, rfl⟩ | ⟨-, r, hr, ⟨-, rfl⟩ | ⟨w, q, hq, rfl⟩⟩
    · exact h
    · exact h.hold (o := .receive ch) (State.lt_of_row hr)
    · exact h.receiveWord hr hq
  | bindOutboundHandler ch x =>
    rcases execBindOutboundHandler_next hx with ⟨-, rfl⟩ | ⟨-, r, hr, hb⟩
    · exact h
    · exact h.bindHandler hr hb
  | bindInboundHandler ch x =>
    rcases execBindInboundHandler_next hx with ⟨-, rfl⟩ | ⟨-, r, hr, hb⟩
    · exact h
    · exact h.bindHandler hr hb
  | setOutboundInterrupt ch v =>
    rcases execSetOutboundInterrupt_next hx with ⟨-, rfl⟩ | ⟨-, r, hr, rfl⟩
    · exact h
    · exact (h.written hr (.set .outbound v) rfl).returning _
  | setInboundInterrupt ch v =>
    rcases execSetInboundInterrupt_next hx with ⟨-, rfl⟩ | ⟨-, r, hr, rfl⟩
    · exact h
    · exact (h.written hr (.set .inbound v) rfl).returning _
  | engineTake ch =>
    rcases execEngineTake_next hx with rfl | ⟨r, w, q, hr, hq, hm, rfl⟩
    · exact h
    · exact h.takeWord hr hq hm
  | engineGive ch w =>
    rcases execEngineGive_next hx with rfl | ⟨r, hr, howes, hroom, rfl⟩
    · exact h
    · exact (h.written hr (.give w howes hroom) rfl).returning _
  | irqEnter b c =>
    rcases execIrqEnter_next hx with rfl | ⟨x, hbound, hcan, rfl⟩
    · exact h
    · obtain ⟨-, -, -, hidle, -⟩ := State.canEnter_iff.mp hcan
      exact h.enterHandler hbound hidle
  | irqReturn b c =>
    rcases execIrqReturn_next hx with rfl | ⟨hcan, rfl⟩
    · exact h
    · obtain ⟨-, htop, -⟩ := State.canReturn_iff.mp hcan
      exact h.returnHandler htop
  | cmdTx ch d st sp n => exact h.consumeCommand hx
  | cmdRx ch d st sp n => exact h.consumeCommand hx
  | rsp ch d n g =>
    rcases execRsp_next hx with rfl | ⟨-, r, q, hr, hq, rfl⟩
    · exact h
    · exact h.receiveWord hr hq

/-- Settles O44: a step moves the schedule on and runs at most one operation, and both keep the invariant. -/
theorem stepKeepsTheInvariant : Obligations.StepKeepsTheInvariant := by
  intro s t h hstep
  obtain ⟨es, rfl | ⟨i, hx⟩⟩ := step_exec hstep
  · exact State.Inv_withSchedule h es
  · exact (State.Inv_withSchedule h es).exec hx

/-! ### The fetch of a word that ENCODE cannot produce -/

/-- A fetch refuses only a command word with a stray bit (R69, log 11). -/
theorem State.fetch_eq_refuse {s : State} {k : QueueKind} {ch : Nat} {x : Refusal} (h : s.fetch k ch = .refuse x) :
    ∃ r w q, s.row ch = some r ∧ r.txq = w :: q ∧ isCommandWord s.cfg w = false := by
  unfold State.fetch at h
  split at h
  case h_1 => cases h
  case h_2 w hw =>
    split at h
    case h_1 => cases h
    case h_2 hrejected =>
      cases k with
      | outbound =>
        obtain ⟨r, q, hr, hq⟩ := State.headWord_outbound_eq_some.mp hw
        exact ⟨r, w, q, hr, hq, decodeWord_outbound_eq_rejected_iff.mp hrejected⟩
      | inbound => cases hrejected

/-- In a state of the invariant no fetch is refused: its outbound words are command words (R61). -/
theorem State.Inv.fetch_ne_refuse {s : State} (h : s.Inv) (k : QueueKind) (ch : Nat) (x : Refusal) :
    s.fetch k ch ≠ .refuse x := by
  intro hf
  obtain ⟨r, w, q, hr, hq, hstray⟩ := State.fetch_eq_refuse hf
  have hword := (h.rows ch r hr).tx_words w (hq ▸ List.mem_cons_self)
  exact Bool.false_ne_true (hstray.symm.trans hword)

theorem State.Inv.select_ne_refuse {s : State} (h : s.Inv) (e : Event) (x : Refusal) : s.select e ≠ .refuse x := by
  intro hsel
  cases e with
  | perform a i =>
    simp only [State.select] at hsel
    split at hsel <;> cases hsel
  | fetchCommand ch => exact h.fetch_ne_refuse .outbound ch x hsel
  | fetchResponse k ch =>
    simp only [State.select] at hsel
    split at hsel
    · exact h.fetch_ne_refuse .inbound ch x hsel
    · cases hsel

/-- What a refused step is: an event refused when it is selected, or an instruction that is refused. -/
theorem step_refused {s : State} {x : Refusal} (h : step s = .refused x) :
    ∃ es, (∃ e, (s.withSchedule es).select e = .refuse x) ∨ ∃ i, exec i (s.withSchedule es) = .refused x := by
  cases hs : s.schedule with
  | nil => simp [step, hs] at h
  | cons e es =>
    refine ⟨es, ?_⟩
    cases hsel : (s.withSchedule es).select e with
    | run i => exact .inr ⟨i, (step_of_select_run hs hsel).symm.trans h⟩
    | noStep => cases (step_of_select_noStep hs hsel).symm.trans h
    | refuse y =>
      cases (step_of_select_refuse hs hsel).symm.trans h
      exact .inl ⟨e, hsel⟩

/-- Settles O52: the decoder rejects a word with a stray bit, and no such word stands in a queue of the invariant. -/
theorem fetchRefusesOnlyUnreachableWords : Obligations.FetchRefusesOnlyUnreachableWords := by
  constructor
  · intro s ch n w es hs hw hn hbit hstart hstop hreply hnack
    have hstray : isCommandWord s.cfg w = false :=
      isCommandWord_eq_false_iff.mpr ⟨n, hn, hbit, by simp [IsFlagBit, hstart, hstop, hreply, hnack]⟩
    have hrejected : decodeWord s.cfg .outbound ch w = .rejected .unusedBitsSet :=
      decodeWord_outbound_eq_rejected_iff.mpr hstray
    have hfetch : s.fetch .outbound ch = .refuse .unreachableCommandWord := by simp [State.fetch, hw, hrejected]
    exact step_of_select_refuse hs hfetch
  · intro s hinv hstep
    obtain ⟨es, ⟨e, hsel⟩ | ⟨i, hx⟩⟩ := step_refused hstep
    · exact (State.Inv_withSchedule hinv es).select_ne_refuse e _ hsel
    · rcases refusalsAreTheTwoNamedOnes _ i _ hx with ⟨h, -⟩ | ⟨h, -⟩ <;> cases h

end Sys2Proof.Machine
